-- ==== Sys2Proof/Word.lean ====
section
/-! DEFINITION. The plain data types the part's words are made of. -/

namespace Sys2Proof

/-- A byte of the head link. -/
abbrev Byte := BitVec 8

/-- A 16-bit word: a frame number, a cycle number, a raw count, a word of a table entry. -/
abbrev Word := BitVec 16

/-- Panel 0 is the cluster port and panel 1 the centre port (spec/00, Panels). -/
inductive Panel where
  | p0
  | p1
deriving DecidableEq, Repr, Inhabited

/-- The panel that is not this one. -/
def Panel.other : Panel → Panel
  | .p0 => .p1
  | .p1 => .p0

/-- A pixel has 24 bits, taken in the order red, green, blue (spec/00, Pixels, lines and cells). -/
structure Pixel where
  red   : Byte
  green : Byte
  blue  : Byte
deriving DecidableEq, Repr, Inhabited

/-- The colour (0, 0, 0). -/
def Pixel.black : Pixel := ⟨0, 0, 0⟩

end Sys2Proof
end

