-- ==== Sys2Proof/Config.lean ====
section
/-! DEFINITION. What is fixed for the part, and the free values the spec leaves open. -/

namespace Sys2Proof.Config

/-- The Line Pool holds 96 pool slots (R1). -/
def poolSlots : Nat := 96

/-- Both active quotas together are at most 92 (R2, R143). -/
def quotaLimit : Nat := 92

/-- At most 4 REPLY parcels are in the Outbound Queue (R157, R158). -/
def replyCap : Nat := 4

/-- At most 8 CAPTURE parcels are in the Outbound Queue (R158, R159). -/
def captureCap : Nat := 8

/-- Where several works fall in one event and the spec gives them no order, they are taken in an order
that this function of a counter picks (R159; assumption log 7). It has no body: nothing can be proved of
its values, so what is proved holds for every order. -/
opaque freeOrder : Nat → Nat

/-- Whether an acquire edge that comes after a restart in SYNCING is that of the acquisition the restart cut short, for a
counter (R26; assumption log 32). It has no body: what is proved holds for both. -/
opaque freeCut : Nat → Bool

end Sys2Proof.Config
end

