-- ==== Sys2Proof/Syntax.lean ====
section
/-! DEFINITION. The commands of the part: one constructor for each row of spec/opcode_table.json.
Operands are the fields of the parcel layouts of R164; a management parcel keeps its header's panel field and
tag as raw bytes, because the Management Unit checks the one and returns both (R136, R164). -/

namespace Sys2Proof

/-- A command: an event on the head link, on a pin, of a port or of the Sense Engine. -/
inductive Instr where
  /-- The RESET pin is asserted (R149). -/
  | powerOnReset
  /-- The first inbound signalling on both lane pairs (R150). -/
  | signalDetect
  /-- Lane and byte alignment completes (R150). -/
  | trainingSuccess
  /-- Alignment is lost while the signal is present (R150, R151). -/
  | alignmentLoss
  /-- Inbound signalling is lost (R150, R151). -/
  | signalLoss
  /-- The bytes that complete an 8-byte header, the last of them the eighth (R154). -/
  | headerComplete (bytes : List Byte)
  /-- The last byte of a parcel that fails a check of R155; the operand is the whole parcel, header first. -/
  | inboundParcelDiscard (bytes : List Byte)
  /-- A FRAME_OPEN parcel (R4, R5). -/
  | frameOpen (panel : Panel) (frame : Word)
  /-- A FRAME_CLOSE parcel (R6). -/
  | frameClose (panel : Panel) (frame : Word)
  /-- A LINE parcel (R8). -/
  | line (panel : Panel) (frame : Word) (lineNo : Word) (pixels : List Pixel)
  /-- A WRITE_ENTRY parcel (R130). -/
  | writeEntry (panel : Byte) (tag : Byte) (table : Byte) (index : Word) (payload : List Byte)
  /-- A READ_ENTRY parcel (R134). -/
  | readEntry (panel : Byte) (tag : Byte) (table : Byte) (copy : Byte) (index : Word)
  /-- The COMMIT command (R142). -/
  | commit (panel : Byte) (tag : Byte)
  /-- The START_PANEL command (R137). -/
  | startPanel (panel : Byte) (tag : Byte)
  /-- The STOP_PANEL command (R138). -/
  | stopPanel (panel : Byte) (tag : Byte)
  /-- The RESTART_PANEL command (R139). -/
  | restartPanel (panel : Byte) (tag : Byte)
  /-- The LOCK_SUPERVISION command (R80). -/
  | lockSupervision (panel : Byte) (tag : Byte)
  /-- The CLEAR_NOTICE command (R140). -/
  | clearNotice (panel : Byte) (tag : Byte) (source : Byte)
  /-- The RESET_BASELINE command (R141). -/
  | resetBaseline (panel : Byte) (tag : Byte)
  /-- The RESET_PART command (R147). -/
  | resetPart (panel : Byte) (tag : Byte)
  /-- A COMMAND whose code names no command (R136). -/
  | unknownCommand (panel : Byte) (tag : Byte) (code : Byte)
  /-- The oldest queue entry begins its transmission (R160). -/
  | transmissionStart
  /-- The last CRC byte of the parcel in transmission is sent (R160). -/
  | transmissionComplete
  /-- The port synthesizer acquires lock (R46). -/
  | acquireEdge (panel : Panel)
  /-- The port synthesizer loses lock (R47). -/
  | lossEdge (panel : Panel)
  /-- The line period of a drive slot ends (R28). -/
  | driveSlotEnd (panel : Panel)
  /-- A blank line period ends (R29). -/
  | blankLineEnd (panel : Panel)
  /-- A stretch line period ends (R36). -/
  | stretchLineBoundary (panel : Panel)
  /-- The stretch line period at whose end the stretch expires ends (R39). -/
  | stretchExpiry (panel : Panel)
  /-- The wait deadline of the panel's WAIT request comes (R92). -/
  | waitDeadline (panel : Panel)
  /-- The switch gap of the panel's window ends (R95). -/
  | switchGapEnd (panel : Panel)
  /-- The setup gap of the panel's window ends (R95). -/
  | setupGapEnd (panel : Panel)
  /-- A burst of the panel ends, with a raw count for each cell of its group and a noise metric (R97). -/
  | burstComplete (panel : Panel) (raws : List Word) (noise : Word)
  /-- The hold gap of the panel's window ends (R99). -/
  | holdGapEnd (panel : Panel)
  /-- The RESET pin is released (R149). -/
  | resetRelease
  /-- A byte equal to 0xA7 arrives in HUNT (R154). -/
  | syncValueReceived
deriving DecidableEq, Repr

end Sys2Proof
end

