-- ==== Sys2Proof/WellFormed.lean ====
section
/-! DEFINITION. Which commands the parcel layouts of R164 and the group widths of R105 admit. -/

namespace Sys2Proof

/-- The entry size in bytes of a table that WRITE_ENTRY can write, by its table code (R164). -/
def entrySize (table : Byte) : Option Nat :=
  if table = 0x01#8 then some 66
  else if table = 0x02#8 then some 8
  else if table = 0x03#8 then some 22
  else if table = 0x04#8 then some 8
  else if table = 0x05#8 then some 2
  else if table = 0x06#8 then some 2
  else none

/-- The largest inbound payload in bytes (R152, R154). -/
def maxPayload : Nat := 7680

/-- A payload suits a WRITE_ENTRY to the table (R155, check 2). -/
def payloadSuits (table : Byte) (payload : List Byte) : Bool :=
  decide (payload.length ≤ maxPayload) &&
    match entrySize table with
    | some n => payload.length == n
    | none => true

/-- A code that names one of the eight commands (R164). -/
def knownCommand (code : Byte) : Bool := decide (1 ≤ code.toNat ∧ code.toNat ≤ 8)

/-- The operands of a command have a form the layouts admit. -/
def Instr.wf : Instr → Bool
  | .powerOnReset => true
  | .signalDetect => true
  | .trainingSuccess => true
  | .alignmentLoss => true
  | .signalLoss => true
  | .headerComplete bytes => decide (1 ≤ bytes.length ∧ bytes.length ≤ 8)
  | .inboundParcelDiscard bytes => decide (14 ≤ bytes.length ∧ bytes.length ≤ 8 + 4 + maxPayload + 4)
  | .frameOpen _ _ => true
  | .frameClose _ _ => true
  | .line _ _ _ pixels => decide (3 * pixels.length ≤ maxPayload)
  | .writeEntry _ _ table _ payload => payloadSuits table payload
  | .readEntry _ _ _ _ _ => true
  | .commit _ _ => true
  | .startPanel _ _ => true
  | .stopPanel _ _ => true
  | .restartPanel _ _ => true
  | .lockSupervision _ _ => true
  | .clearNotice _ _ _ => true
  | .resetBaseline _ _ => true
  | .resetPart _ _ => true
  | .unknownCommand _ _ code => !knownCommand code
  | .transmissionStart => true
  | .transmissionComplete => true
  | .acquireEdge _ => true
  | .lossEdge _ => true
  | .driveSlotEnd _ => true
  | .blankLineEnd _ => true
  | .stretchLineBoundary _ => true
  | .stretchExpiry _ => true
  | .waitDeadline _ => true
  | .switchGapEnd _ => true
  | .setupGapEnd _ => true
  | .burstComplete _ raws _ => decide (1 ≤ raws.length ∧ raws.length ≤ 32)
  | .holdGapEnd _ => true
  | .resetRelease => true
  | .syncValueReceived => true

end Sys2Proof
end

