-- ==== Sys2Proof/Machine/State.lean ====
section
/-! DEFINITION. The state of the part: plain data, every piece the spec names, and its value after reset. -/

namespace Sys2Proof.Machine

/-! ### Notices (spec/09) -/

/-- The part-scope notice sources (R166). -/
inductive PartSource where
  | linkUp
  | linkRetrain
  | badParcel
  | mgmtDrop
deriving DecidableEq, Repr

/-- The panel-scope notice sources (R166). -/
inductive PanelSource where
  | prestart
  | mark
  | lineMiss
  | overrun
  | stray
  | ticketRefused
  | unclosed
  | commitDone
  | captureIncomplete
  | captureLost
  | safeEntered
  | safeLeft
  | lockAcquired
  | lockLost
  | senseSkipped
  | scanNoisy
  | hop
  | noisePersist
  | stretchExpired
deriving DecidableEq, Repr

/-- A notice source. -/
inductive Source where
  | part (src : PartSource)
  | panel (src : PanelSource)
deriving DecidableEq, Repr

/-- The name of one flag of the Notice Table: a part-scope source, or a panel-scope source and a panel (R165). -/
inductive FlagId where
  | part (src : PartSource)
  | panel (src : PanelSource) (p : Panel)
deriving DecidableEq, Repr

/-- Where a flag stands (R165). -/
inductive FlagState where
  | clear
  | pending
  | inQueue
  | announced
deriving DecidableEq, Repr

/-- One flag of the Notice Table (R165). -/
structure Flag where
  state : FlagState
  count : Nat
  info  : Word
  late  : Bool
deriving DecidableEq, Repr

/-- A flag as reset leaves it (R165). -/
def Flag.reset : Flag := ⟨.clear, 0, 0, false⟩

/-- The Notice Unit: the flags, the Notice Priority Table (R133) and the able state (R168). -/
structure NoticeUnit where
  part      : Vector Flag 4
  panel0    : Vector Flag 19
  panel1    : Vector Flag 19
  partPrio  : Vector Nat 4
  panelPrio : Vector Nat 19
  able      : Bool
deriving DecidableEq, Repr

/-- The default priorities of the part-scope sources, in code order (R166). -/
def partPrioReset : Vector Nat 4 := #v[2, 3, 1, 2]

/-- The default priorities of the panel-scope sources, in code order (R166). -/
def panelPrioReset : Vector Nat 19 :=
  #v[1, 1, 2, 2, 1, 2, 1, 1, 2, 1, 3, 3, 2, 3, 1, 1, 2, 2, 1]

/-- The Notice Unit after power-on reset (R165). -/
def NoticeUnit.reset : NoticeUnit :=
  { part := Vector.replicate 4 Flag.reset
    panel0 := Vector.replicate 19 Flag.reset
    panel1 := Vector.replicate 19 Flag.reset
    partPrio := partPrioReset
    panelPrio := panelPrioReset
    able := false }

/-! ### Panel tables (spec/07) -/

inductive RefreshMode where | fixed | adaptive
deriving DecidableEq, Repr

inductive MarkerBinding where | notice | capture
deriving DecidableEq, Repr

inductive LockEdgeSelect where | none | acquire | loss | both
deriving DecidableEq, Repr

inductive MissingPolicy where | repeatPrev | fill
deriving DecidableEq, Repr

/-- The Panel Descriptor (R127). Line period in steps of 10 ns, sense times in µs. -/
structure PanelDescriptor where
  width : Nat
  activeLines : Nat
  linePeriod : Nat
  refresh : RefreshMode
  stretchLimit : Nat
  stretchSensing : Bool
  prestartLead : Nat
  marker : Option Nat
  binding : MarkerBinding
  edgeSelect : LockEdgeSelect
  quota : Nat
  policy : MissingPolicy
  fill : Pixel
  tolerance : Nat
  staleLimit : Nat
  sensePriority : Nat
  burstLength : Nat
  switchGap : Nat
  setupGap : Nat
  holdGap : Nat
  waitLimit : Nat
  columns : Nat
  rows : Nat
  pitchX : Nat
  pitchY : Nat
  touchThreshold : Nat
  releaseThreshold : Nat
  driftStep : Nat
  maxContacts : Nat
  noiseThreshold : Nat
  hopTrigger : Nat
deriving DecidableEq, Repr

/-- The reset values of R127; the sense priority is 2 for panel 0 and 1 for panel 1. -/
def PanelDescriptor.reset (p : Panel) : PanelDescriptor :=
  { width := 64, activeLines := 64, linePeriod := 1600, refresh := .fixed, stretchLimit := 0,
    stretchSensing := false, prestartLead := 0, marker := none, binding := .notice, edgeSelect := .both,
    quota := 4, policy := .repeatPrev, fill := Pixel.black, tolerance := 0, staleLimit := 0,
    sensePriority := (match p with | .p0 => 2 | .p1 => 1),
    burstLength := 100, switchGap := 10, setupGap := 10, holdGap := 10, waitLimit := 200,
    columns := 1, rows := 1, pitchX := 64, pitchY := 64, touchThreshold := 200, releaseThreshold := 120,
    driftStep := 1, maxContacts := 10, noiseThreshold := 1000, hopTrigger := 3 }

/-- The kind of a Frame Timeline entry; `stop` is the manual's END (R20). -/
inductive SegKind where | drive | sense | blank | stop
deriving DecidableEq, Repr

/-- A Frame Timeline entry. Fields its kind does not use are stored as received, so they stay words (R20, R162). -/
structure Segment where
  kind : SegKind
  lineCount : Word
  groupCount : Word
  yieldCode : Word
deriving DecidableEq, Repr

/-- What a TIMELINE request does when it cannot be granted (R20, R84). -/
inductive Yield where | wait | skip
deriving DecidableEq, Repr

/-- The default Frame Timeline (R20). -/
def timelineReset : Vector Segment 48 :=
  ((Vector.replicate 48 ⟨.stop, 0, 0, 0⟩).set 0 ⟨.drive, 64, 0, 0⟩).set 1 ⟨.blank, 16, 0, 0⟩

inductive RegionSource where | host | retained
deriving DecidableEq, Repr

/-- A Region Table entry (R48). -/
structure Region where
  valid : Bool
  x0 : Nat
  x1 : Nat
  y0 : Nat
  y1 : Nat
  source : RegionSource
  capture : Bool
  mask : Bool
  check : Bool
  firstBlock : Nat
  locked : Bool
deriving DecidableEq, Repr

/-- A Region Table entry as reset leaves it (R48). -/
def Region.reset : Region := ⟨false, 0, 0, 0, 0, .host, false, false, false, 0, false⟩

/-- A Group Table entry (R105). -/
structure Group where
  inUse : Bool
  row : Nat
  col : Nat
  width : Nat
deriving DecidableEq, Repr

/-- The Group Table at reset: one group, the one cell of the reset matrix (R105). -/
def groupsReset : Vector Group 64 := (Vector.replicate 64 ⟨false, 0, 0, 1⟩).set 0 ⟨true, 0, 0, 1⟩

/-- The Hop Table at reset: 150 kHz, then none (R123). -/
def hopsReset : Vector (Option Nat) 8 := (Vector.replicate 8 none).set 0 (some 150)

/-- One copy of a panel's five tables (R126). -/
structure Tables where
  pd : PanelDescriptor
  timeline : Vector Segment 48
  regions : Vector Region 16
  groups : Vector Group 64
  hops : Vector (Option Nat) 8
deriving DecidableEq, Repr

def Tables.reset (p : Panel) : Tables :=
  { pd := PanelDescriptor.reset p, timeline := timelineReset, regions := Vector.replicate 16 Region.reset,
    groups := groupsReset, hops := hopsReset }

/-- The Management Unit's state of one panel (spec/07). -/
structure Mgmt where
  staged : Tables
  active : Tables
  commitPending : Bool
  committed : Bool
  supLock : Bool
deriving DecidableEq, Repr

def Mgmt.reset (p : Panel) : Mgmt := ⟨Tables.reset p, Tables.reset p, false, false, false⟩

/-! ### Ingress and Line Pool (spec/01) -/

inductive TicketState where | opened | closed
deriving DecidableEq, Repr

/-- A ticket (spec/01): frame number, OPEN or CLOSED, lines accepted. -/
structure Ticket where
  frame : Word
  state : TicketState
  accepted : Nat
deriving DecidableEq, Repr

/-- A pool slot in use: one line with the frame number and line number it arrived with (R1). -/
structure LineSlot where
  frame : Word
  lineNo : Nat
  pixels : List Pixel
deriving DecidableEq, Repr

/-- The Ingress Unit of one panel (spec/01). -/
structure Ingress where
  scan : Option Ticket
  waiting : List Ticket
  lastScan : Option Word
  queue : List LineSlot
  driving : Option LineSlot
  lastHost : Option LineSlot
  missing : Nat
deriving DecidableEq, Repr

/-- The Ingress state after a reset, a restart or a stop (R17, R19). -/
def Ingress.reset : Ingress := ⟨none, [], none, [], none, none, 0⟩

/-! ### Timeline Sequencer (spec/02) -/

inductive PanelRun where | disabled | syncing | running | stretch
deriving DecidableEq, Repr

inductive SensePhase where | none | request | switch | setup | burst | hold
deriving DecidableEq, Repr

inductive StretchOutcome where | none | ticket | expired
deriving DecidableEq, Repr

/-- The Timeline Sequencer of one panel (spec/02). `deferred` says that a frame start of a stretch waits for
the end of a FREE window's hold gap (R37, R39; log 12). `cutShort` says that a RESTART_PANEL in SYNCING has cut an
acquisition short, and that the panel has waited in SYNCING for an acquire edge since (R26; log 32). -/
structure Sequencer where
  run : PanelRun
  segment : Option Nat
  progress : Nat
  phase : SensePhase
  linesDriven : Nat
  linePos : Nat
  frameEnd : Bool
  linesLeft : Nat
  prestartDone : Bool
  markDone : Bool
  stretchCount : Nat
  outcome : StretchOutcome
  deferred : Bool
  locked : Bool
  synthWidth : Nat
  synthPeriod : Nat
  cutShort : Bool
deriving DecidableEq, Repr

/-- The sequencer after a reset (R23, R44). -/
def Sequencer.reset : Sequencer :=
  { run := .disabled, segment := none, progress := 0, phase := .none, linesDriven := 0, linePos := 0,
    frameEnd := false, linesLeft := 0, prestartDone := false, markDone := false, stretchCount := 0,
    outcome := .none, deferred := false, locked := false, synthWidth := 64, synthPeriod := 1600,
    cutShort := false }

/-! ### Composer and Retained Store (spec/03) -/

inductive FrontState where | empty | valid
deriving DecidableEq, Repr

inductive FrontSide where | first | second
deriving DecidableEq, Repr

/-- The check accumulator of a region in the current frame (R53, R59, R60). -/
structure CheckAcc where
  crc : BitVec 32
  substituted : Nat
deriving DecidableEq, Repr

/-- The region state of one entry (R53). The row mask lists rows of the rectangle, without repeats. -/
structure RegionState where
  front : FrontState
  side : FrontSide
  mask : List Nat
  acc : Option CheckAcc
deriving DecidableEq, Repr

def RegionState.reset : RegionState := ⟨.empty, .first, [], none⟩

/-- The Composer of one panel; `driven` is the driven line of the drive slot in progress (R54, R55). -/
structure Composer where
  regions : Vector RegionState 16
  driven : Option (List Pixel)
deriving DecidableEq, Repr

def Composer.reset : Composer := ⟨Vector.replicate 16 RegionState.reset, none⟩

/-- The Retained Store as a sparse list of (byte address, byte) pairs, addresses strictly rising, no entry
equal to `storeBackground` (log 22). -/
abbrev Memory := List Host.Cell

/-- What an unlisted address of the store reads as: reset writes every pixel as zero (R52, R68). -/
def storeBackground : Byte := 0

/-! ### Supervision (spec/04) -/

inductive ContentMode where | live | safe
deriving DecidableEq, Repr

structure Supervision where
  stale : Nat
  mode : ContentMode
  next : ContentMode
deriving DecidableEq, Repr

def Supervision.reset : Supervision := ⟨0, .live, .live⟩

/-! ### Sense Arbiter and Sense Engine (spec/05) -/

/-- One half of the Sense Engine: the panel that holds it and the panel whose window last held it (R83). -/
structure Half where
  holder : Option Panel
  lastUser : Option Panel
deriving DecidableEq, Repr

/-- The halves set aside for a waiting two-half TIMELINE request, and its panel (R90). -/
structure Reservation where
  panel : Panel
  a : Bool
  b : Bool
deriving DecidableEq, Repr

structure Arbiter where
  a : Half
  b : Half
  reservation : Option Reservation
deriving DecidableEq, Repr

def Arbiter.reset : Arbiter := ⟨⟨none, none⟩, ⟨none, none⟩, none⟩

inductive ReqClass where | timeline | free
deriving DecidableEq, Repr

/-- A waiting sense request (R84); the deadline is in µs after its making. -/
structure Request where
  cls : ReqClass
  groups : Nat
  need : Nat
  yield : Option Yield
  deadline : Option Nat
deriving DecidableEq, Repr

/-- A burst in progress: its group, and the sense frequency in kHz taken at its beginning (R96). -/
structure Burst where
  group : Nat
  frequency : Nat
deriving DecidableEq, Repr

/-- A granted window (spec/05). -/
structure Window where
  need : Nat
  remaining : Nat
  burst : Option Burst
deriving DecidableEq, Repr

/-- What one panel has with the arbiter. -/
structure SenseClaim where
  request : Option Request
  window : Option Window
deriving DecidableEq, Repr

def SenseClaim.reset : SenseClaim := ⟨none, none⟩

/-! ### Touch Processor (spec/06) -/

/-- A record of the Cell State Array (R108). -/
structure Cell where
  raw : Word
  baseline : Word
  contact : Bool
deriving DecidableEq, Repr

def Cell.reset : Cell := ⟨0, 0, false⟩

/-- The Touch Processor of one panel. The Cell State Array lists the records that differ from `Cell.reset`,
in rising order of their key 64 × row + column. -/
structure Touch where
  cells : List (Nat × Cell)
  cursor : Nat
  cycle : Word
  cycleOpen : Bool
  noiseMax : Word
  spanned : Nat
  noisy : Nat
  hop : Nat
  hopPending : Bool
  reseed : Bool
  lastHad : Bool
deriving DecidableEq, Repr

/-- The Touch Processor after a reset (R107). -/
def Touch.reset : Touch := ⟨[], 0, 0, false, 0, 1, 0, 0, false, true, false⟩

/-! ### Head link (spec/08) -/

inductive LinkState where | down | training | up
deriving DecidableEq, Repr

/-- The receiver state with the parcel in reception (R154). -/
inductive Receiver where
  | hunt
  | header (bytes : List Byte)
  | body (header : List Byte)
deriving DecidableEq, Repr

/-- The reply statuses (R129, R164). -/
inductive Status where
  | ok | badTable | badIndex | badValue | badTimeline | badCombo | overlap | noSpace | pending | locked
  | state | badCmd
deriving DecidableEq, Repr

inductive Disposition where | none | applied | pending
deriving DecidableEq, Repr

inductive RequestKind where | writeEntry | readEntry | command
deriving DecidableEq, Repr

/-- A REPLY parcel (R129); the panel field is the request's. -/
structure ReplyParcel where
  kind : RequestKind
  panel : Byte
  tag : Byte
  status : Status
  disposition : Disposition
  detailTable : Byte
  detailIndex : Option Nat
  entry : List Word
deriving DecidableEq, Repr

/-- A NOTICE parcel (R169). `orphan` marks one whose flag RESET_PART reset after it was built (R148, R171). -/
structure NoticeParcel where
  flag : FlagId
  count : Nat
  scanFrame : Option Word
  info : Word
  orphan : Bool
deriving DecidableEq, Repr

structure Contact where
  col : Nat
  row : Nat
  delta : Int
deriving DecidableEq, Repr

/-- A TOUCH report (R118). -/
structure TouchParcel where
  panel : Panel
  cycle : Word
  hop : Nat
  spanned : Nat
  noisy : Bool
  truncated : Bool
  coalesced : Bool
  contacts : List Contact
deriving DecidableEq, Repr

structure CheckEntry where
  region : Nat
  crc : BitVec 32
  substituted : Nat
deriving DecidableEq, Repr

/-- A CHECK parcel (R61). -/
structure CheckParcel where
  panel : Panel
  scanFrame : Option Word
  mode : ContentMode
  skipped : Nat
  entries : List CheckEntry
deriving DecidableEq, Repr

/-- A marker-line CAPTURE parcel (R43). -/
structure CaptureParcel where
  panel : Panel
  scanFrame : Option Word
  lineNo : Nat
  mode : ContentMode
  width : Nat
  pixels : List Pixel
deriving DecidableEq, Repr

/-- An outbound parcel, by class (R158). -/
inductive OutParcel where
  | reply (r : ReplyParcel)
  | notice (n : NoticeParcel)
  | touch (t : TouchParcel)
  | check (c : CheckParcel)
  | capture (c : CaptureParcel)
deriving DecidableEq, Repr

/-- The Head Link Port. `sending` holds the bytes on the outbound lane pair while the head of the queue is the
parcel in transmission (R160). -/
structure Link where
  state : LinkState
  rx : Receiver
  queue : List OutParcel
  sending : Option (List Byte)
  replyCount : Nat
deriving DecidableEq, Repr

def Link.reset : Link := ⟨.down, .hunt, [], none, 0⟩

/-! ### The whole part -/

/-- Everything the blocks of one panel hold. -/
structure PanelState where
  mgmt : Mgmt
  seq : Sequencer
  ingress : Ingress
  composer : Composer
  sup : Supervision
  claim : SenseClaim
  touch : Touch
deriving DecidableEq, Repr

def PanelState.reset (p : Panel) : PanelState :=
  ⟨Mgmt.reset p, Sequencer.reset, Ingress.reset, Composer.reset, Supervision.reset, SenseClaim.reset, Touch.reset⟩

/-- The state of the part. `openOrders` is the model's own: how many free choices have been taken (logs 7 and 32).
`pending` is the queue of the commands that wait, first in, first out. -/
structure State where
  resetPin : Bool
  link : Link
  notices : NoticeUnit
  freeSlots : Nat
  store : Memory
  arb : Arbiter
  pan0 : PanelState
  pan1 : PanelState
  openOrders : Nat
  pending : List Instr
deriving DecidableEq, Repr

/-- The part does not stop: the spec names no event at which it does, so there is no fault. -/
inductive Fault where
deriving DecidableEq, Repr

/-- Why a command has no meaning. -/
inductive Refusal where
  /-- Raised by an arm of `exec` whose command the model does not give a meaning; safe. No arm raises it. -/
  | notModelled (mnemonic : String)
deriving DecidableEq, Repr

/-- The part right after reset, with the RESET pin released (R19, R23, R68, R70, R103, R107, R149, R150, R165; log 5). -/
def State.reset : State :=
  { resetPin := false
    link := Link.reset
    notices := NoticeUnit.reset
    freeSlots := Config.poolSlots
    store := []
    arb := Arbiter.reset
    pan0 := PanelState.reset .p0
    pan1 := PanelState.reset .p1
    openOrders := 0
    pending := [] }

end Sys2Proof.Machine
end

