-- ==== Sys2Proof/Machine/Ops.lean ====
section
/-! DEFINITION. The named operations over the state: panels, the sparse stores, table views, and the free order
of works that one event holds and the spec does not order. -/

namespace Sys2Proof.Machine

/-! ### Panels -/

/-- What the blocks of panel `p` hold. -/
def State.panel (s : State) : Panel → PanelState
  | .p0 => s.pan0
  | .p1 => s.pan1

def State.setPanel (s : State) (p : Panel) (x : PanelState) : State :=
  match p with
  | .p0 => { s with pan0 := x }
  | .p1 => { s with pan1 := x }

def State.mgmt (s : State) (p : Panel) : Mgmt := (s.panel p).mgmt
def State.seq (s : State) (p : Panel) : Sequencer := (s.panel p).seq
def State.ingress (s : State) (p : Panel) : Ingress := (s.panel p).ingress
def State.composer (s : State) (p : Panel) : Composer := (s.panel p).composer
def State.sup (s : State) (p : Panel) : Supervision := (s.panel p).sup
def State.claim (s : State) (p : Panel) : SenseClaim := (s.panel p).claim
def State.touch (s : State) (p : Panel) : Touch := (s.panel p).touch

/-- The active tables of a panel: what its blocks work from (R126). -/
def State.tables (s : State) (p : Panel) : Tables := (s.mgmt p).active

/-- The active Panel Descriptor of a panel. -/
def State.pd (s : State) (p : Panel) : PanelDescriptor := (s.tables p).pd

def modMgmt (p : Panel) (f : Mgmt → Mgmt) (s : State) : State :=
  s.setPanel p { s.panel p with mgmt := f (s.mgmt p) }
def modSeq (p : Panel) (f : Sequencer → Sequencer) (s : State) : State :=
  s.setPanel p { s.panel p with seq := f (s.seq p) }
def modIngress (p : Panel) (f : Ingress → Ingress) (s : State) : State :=
  s.setPanel p { s.panel p with ingress := f (s.ingress p) }
def modComposer (p : Panel) (f : Composer → Composer) (s : State) : State :=
  s.setPanel p { s.panel p with composer := f (s.composer p) }
def modSup (p : Panel) (f : Supervision → Supervision) (s : State) : State :=
  s.setPanel p { s.panel p with sup := f (s.sup p) }
def modClaim (p : Panel) (f : SenseClaim → SenseClaim) (s : State) : State :=
  s.setPanel p { s.panel p with claim := f (s.claim p) }
def modTouch (p : Panel) (f : Touch → Touch) (s : State) : State :=
  s.setPanel p { s.panel p with touch := f (s.touch p) }
def modLink (f : Link → Link) (s : State) : State := { s with link := f s.link }
def modNotices (f : NoticeUnit → NoticeUnit) (s : State) : State := { s with notices := f s.notices }
def modArb (f : Arbiter → Arbiter) (s : State) : State := { s with arb := f s.arb }
def modStore (f : Memory → Memory) (s : State) : State := { s with store := f s.store }

/-- `n` slots return to the free list (R1). -/
def freeSlot (n : Nat) (s : State) : State := { s with freeSlots := s.freeSlots + n }

/-- One slot leaves the free list (R1). -/
def takeSlot (s : State) : State := { s with freeSlots := s.freeSlots - 1 }

/-! ### Sparse stores -/

/-- The value at a key; a key that is not listed has the value `d`. -/
def Sparse.get {α : Type} (d : α) : List (Nat × α) → Nat → α
  | [], _ => d
  | (k, v) :: m, a => if k = a then v else Sparse.get d m a

/-- The canonical form: keys strictly rising, no entry equal to what an unlisted key has. -/
def Sparse.wf {α : Type} [DecidableEq α] (d : α) : List (Nat × α) → Bool
  | [] => true
  | (k, v) :: m => decide (v ≠ d) && (m.all fun e => decide (k < e.1)) && Sparse.wf d m

/-- Writing keeps the canonical form: writing `d` removes the entry. -/
def Sparse.set {α : Type} [DecidableEq α] (d : α) : List (Nat × α) → Nat → α → List (Nat × α)
  | [], a, v => if v = d then [] else [(a, v)]
  | (k, w) :: m, a, v =>
    if a < k then (if v = d then (k, w) :: m else (a, v) :: (k, w) :: m)
    else if a = k then (if v = d then m else (a, v) :: m)
    else (k, w) :: Sparse.set d m a v

/-- Apply `f` to every listed value; `f` keeps the value of unlisted keys. -/
def Sparse.map {α : Type} [DecidableEq α] (d : α) (f : α → α) : List (Nat × α) → List (Nat × α)
  | [] => []
  | (k, v) :: m => if f v = d then Sparse.map d f m else (k, f v) :: Sparse.map d f m

/-! ### The Retained Store (R52) -/

/-- The store is in canonical form. -/
def Memory.wf (m : Memory) : Bool := Sparse.wf storeBackground m

def Memory.read (m : Memory) (a : Nat) : Byte := Sparse.get storeBackground m a
def Memory.write (m : Memory) (a : Nat) (v : Byte) : Memory := Sparse.set storeBackground m a v

/-- The bytes one block takes: 64 × 64 pixels of three bytes. -/
def blockBytes : Nat := 12288

/-- The address of the red byte of a block's pixel at a row and column (log 22). -/
def pixelAddr (block row col : Nat) : Nat := block * blockBytes + (row * 64 + col) * 3

def Memory.readPixel (m : Memory) (a : Nat) : Pixel := ⟨m.read a, m.read (a + 1), m.read (a + 2)⟩

def Memory.writePixel (m : Memory) (a : Nat) (px : Pixel) : Memory :=
  ((m.write a px.red).write (a + 1) px.green).write (a + 2) px.blue

/-- Copy the `len` bytes from `src` on to the `len` bytes from `dst` on (R64). -/
def Memory.copy (m : Memory) (src dst len : Nat) : Memory :=
  (m.filter fun c => decide (src ≤ c.1 ∧ c.1 < src + len)).foldl (fun acc c => acc.write (dst + (c.1 - src)) c.2)
    (m.filter fun c => !decide (dst ≤ c.1 ∧ c.1 < dst + len))

/-! ### Table views -/

/-- The segment list of a Frame Timeline (R20). -/
def Tables.segments (t : Tables) : List Segment := t.timeline.toList.takeWhile fun e => e.kind ≠ .stop

/-- The yield of a SENSE segment. -/
def Segment.yield (e : Segment) : Yield := if e.yieldCode = 1#16 then .skip else .wait

/-- The nominal length of a frame (R21). -/
def Tables.nominalLength (t : Tables) : Nat :=
  (t.segments.map fun e => match e.kind with
    | .drive => e.lineCount.toNat
    | .blank => e.lineCount.toNat
    | .sense => 0
    | .stop => 0).sum

/-- The groups of a Group Table (R105). -/
def Tables.groupList (t : Tables) : List Group := t.groups.toList.takeWhile fun g => g.inUse

/-- The length of a Hop Table (R123). -/
def Tables.hopLength (t : Tables) : Nat := (t.hops.toList.takeWhile fun h => h.isSome).length

/-- The cells of a group, column and row, from the first column rightward (R105). -/
def Group.cells (g : Group) : List (Nat × Nat) := (List.range g.width).map fun i => (g.col + i, g.row)

/-- The measured cells of a table (R105). -/
def Tables.measured (t : Tables) : List (Nat × Nat) := t.groupList.flatMap Group.cells

/-- The key of a cell in the Cell State Array. -/
def cellKey (col row : Nat) : Nat := 64 * row + col

def Region.width (r : Region) : Nat := r.x1 - r.x0 + 1
def Region.height (r : Region) : Nat := r.y1 - r.y0 + 1

def ceilDiv64 (n : Nat) : Nat := (n + 63) / 64

/-- The blocks one image of a region needs (R49). -/
def Region.imageBlocks (r : Region) : Nat := ceilDiv64 r.width * ceilDiv64 r.height

/-- The four region modes (R49). -/
inductive RegionMode where | window | mirror | staged | fixed
deriving DecidableEq, Repr

def Region.mode (r : Region) : RegionMode :=
  match r.source, r.capture with
  | .host, false => .window
  | .host, true => .mirror
  | .retained, true => .staged
  | .retained, false => .fixed

/-- The blocks a region uses; an invalid entry uses none (R49). -/
def Region.blocksUsed (r : Region) : Nat :=
  if r.valid then
    match r.mode with
    | .window => 0
    | .mirror => 2 * r.imageBlocks
    | .staged => 2 * r.imageBlocks
    | .fixed => r.imageBlocks
  else 0

/-- The rectangle holds pixel (x, y). -/
def Region.contains (r : Region) (x y : Nat) : Bool :=
  decide (r.x0 ≤ x ∧ x ≤ r.x1 ∧ r.y0 ≤ y ∧ y ≤ r.y1)

/-- The rectangle holds row y. -/
def Region.hasRow (r : Region) (y : Nat) : Bool := decide (r.y0 ≤ y ∧ y ≤ r.y1)

/-! ### Frame numbers (spec/00, Frame numbers) -/

/-- `b` is ahead of `a`. -/
def ahead (b a : Word) : Bool := decide (1 ≤ (b - a).toNat ∧ (b - a).toNat ≤ 32767)

/-- `a` is behind `b`. -/
def behind (a b : Word) : Bool := ahead b a

/-! ### Works of one event that the spec does not order (log 7) -/

/-- Take the works in an order the free value picks; one work or none needs no order. The first argument
bounds the recursion. -/
def inFreeOrderFuel : Nat → List (State → State) → State → State
  | 0, _, s => s
  | _ + 1, [], s => s
  | _ + 1, [f], s => f s
  | n + 1, f :: g :: fs, s =>
    let works := f :: g :: fs
    let k := Config.freeOrder s.openOrders % works.length
    inFreeOrderFuel n (works.eraseIdx k) ((works.getD k id) { s with openOrders := s.openOrders + 1 })

def inFreeOrder (works : List (State → State)) (s : State) : State := inFreeOrderFuel works.length works s

end Sys2Proof.Machine
end

