-- ==== Sys2Proof/Machine/Flags.lean ====
section
/-! DEFINITION. The flags of the Notice Table: occurrences, the choice of the next notice, and what a completed or
flushed NOTICE parcel does to its flag (spec/09). -/

namespace Sys2Proof.Machine

/-! ### Sources and their codes (R166) -/

def PartSource.all : List PartSource := [.linkUp, .linkRetrain, .badParcel, .mgmtDrop]

def PanelSource.all : List PanelSource :=
  [.prestart, .mark, .lineMiss, .overrun, .stray, .ticketRefused, .unclosed, .commitDone, .captureIncomplete,
   .captureLost, .safeEntered, .safeLeft, .lockAcquired, .lockLost, .senseSkipped, .scanNoisy, .hop,
   .noisePersist, .stretchExpired]

/-- The place of a part-scope source among the part-scope sources, in code order. -/
def PartSource.idx : PartSource → Fin 4
  | .linkUp => 0 | .linkRetrain => 1 | .badParcel => 2 | .mgmtDrop => 3

/-- The place of a panel-scope source among the panel-scope sources, in code order. -/
def PanelSource.idx : PanelSource → Fin 19
  | .prestart => 0 | .mark => 1 | .lineMiss => 2 | .overrun => 3 | .stray => 4 | .ticketRefused => 5
  | .unclosed => 6 | .commitDone => 7 | .captureIncomplete => 8 | .captureLost => 9 | .safeEntered => 10
  | .safeLeft => 11 | .lockAcquired => 12 | .lockLost => 13 | .senseSkipped => 14 | .scanNoisy => 15
  | .hop => 16 | .noisePersist => 17 | .stretchExpired => 18

/-- The source codes: 0x01 to 0x04 and 0x10 to 0x22 (R166). -/
def Source.code : Source → Nat
  | .part src => 0x01 + src.idx
  | .panel src => 0x10 + src.idx

/-- The source a code names; any other value is not a source code (R166). -/
def Source.ofCode (n : Nat) : Option Source :=
  if n < 0x10 then (if n = 0 then none else PartSource.all[n - 1]?.map .part)
  else PanelSource.all[n - 0x10]?.map .panel

/-- The sticky sources: LINK_RETRAIN, SAFE_ENTERED and LOCK_LOST (R140, R166). -/
def Source.sticky : Source → Bool
  | .part .linkRetrain => true
  | .panel .safeEntered => true
  | .panel .lockLost => true
  | _ => false

def FlagId.source : FlagId → Source
  | .part src => .part src
  | .panel src _ => .panel src

/-- Every flag, by source code and panel 0 before panel 1: the order of R169 among equal priorities. -/
def FlagId.all : List FlagId :=
  PartSource.all.map .part ++ PanelSource.all.flatMap fun src => [.panel src .p0, .panel src .p1]

/-- The flag a source has for a panel; a part-scope source has one for the part (R128, R136). -/
def Source.flagFor (p : Panel) : Source → FlagId
  | .part src => .part src
  | .panel src => .panel src p

/-! ### Reading and writing the Notice Table -/

def NoticeUnit.flag (u : NoticeUnit) : FlagId → Flag
  | .part src => u.part[src.idx]
  | .panel src .p0 => u.panel0[src.idx]
  | .panel src .p1 => u.panel1[src.idx]

def NoticeUnit.setFlag (u : NoticeUnit) (f : FlagId) (x : Flag) : NoticeUnit :=
  match f with
  | .part src => { u with part := u.part.set src.idx x }
  | .panel src .p0 => { u with panel0 := u.panel0.set src.idx x }
  | .panel src .p1 => { u with panel1 := u.panel1.set src.idx x }

def NoticeUnit.prio (u : NoticeUnit) : Source → Nat
  | .part src => u.partPrio[src.idx]
  | .panel src => u.panelPrio[src.idx]

def NoticeUnit.setPrio (u : NoticeUnit) (src : Source) (n : Nat) : NoticeUnit :=
  match src with
  | .part src => { u with partPrio := u.partPrio.set src.idx n }
  | .panel src => { u with panelPrio := u.panelPrio.set src.idx n }

def State.flag (s : State) (f : FlagId) : Flag := s.notices.flag f

/-- The panel's scan frame: its scan ticket's frame number, or none (R3). -/
def State.scanFrame (s : State) (p : Panel) : Option Word := (s.ingress p).scan.map (·.frame)

/-! ### The choice of the next notice (R168, R169) -/

/-- A flag is a candidate at a priority when it is PENDING and its source has that priority. -/
def NoticeUnit.candidate (u : NoticeUnit) (pr : Nat) (f : FlagId) : Bool :=
  decide ((u.flag f).state = .pending) && u.prio f.source == pr

/-- The first PENDING flag by priority 3 to 1, then by code and panel (R169). -/
def NoticeUnit.choose (u : NoticeUnit) : Option FlagId :=
  match FlagId.all.find? (u.candidate 3) with
  | some f => some f
  | none =>
    match FlagId.all.find? (u.candidate 2) with
    | some f => some f
    | none => FlagId.all.find? (u.candidate 1)

/-- The NOTICE parcel of a chosen flag (R169). -/
def State.noticeFor (s : State) (f : FlagId) : NoticeParcel :=
  { flag := f
    count := (s.flag f).count
    scanFrame := (match f with | .part _ => none | .panel _ p => s.scanFrame p)
    info := (s.flag f).info
    orphan := false }

/-- The chosen flag becomes IN_QUEUE, its parcel is appended, and the unit is not able (R168, R169). -/
def placeNotice (f : FlagId) (s : State) : State :=
  { s with
    link := { s.link with queue := s.link.queue ++ [.notice (s.noticeFor f)] }
    notices := { s.notices.setFlag f { s.flag f with state := .inQueue } with able := false } }

/-- A choice, where the unit is able; one that finds no candidate places nothing (R168). -/
def makeChoice (s : State) : State :=
  if s.notices.able then
    match s.notices.choose with
    | some f => placeNotice f s
    | none => s
  else s

/-- The queue reports able: the unit is able and a choice is made (R159, R168). -/
def reportAble (s : State) : State := makeChoice (modNotices (fun u => { u with able := true }) s)

/-! ### Occurrences (R167) -/

/-- What an occurrence does to its flag. -/
def Flag.occur (x : Flag) (info : Word) : Flag :=
  { state := (if x.state = .clear then .pending else x.state)
    count := min 255 (x.count + 1)
    info := info
    late := x.late || (decide (x.state = .inQueue) && x.count == 255) }

/-- An occurrence on a flag; a flag that becomes PENDING by it leads to a choice (R167, R168). Where one event holds several
occurrences of a source (R16, R57), R169 lets the choice come before or after the later ones; that each occurrence is taken
with its choice before the next one is the model's choice (DESIGN CHOICE, log 33). -/
def occur (f : FlagId) (info : Word) (s : State) : State :=
  let s' := modNotices (fun u => u.setFlag f ((u.flag f).occur info)) s
  if (s.flag f).state = .clear then makeChoice s' else s'

/-- An occurrence of a panel-scope source without an info value. -/
def occurs (src : PanelSource) (p : Panel) (s : State) : State := occur (.panel src p) 0 s

/-- `n` occurrences of a panel-scope source without an info value, one after another. -/
def occursTimes (src : PanelSource) (p : Panel) : Nat → State → State
  | 0, s => s
  | n + 1, s => occursTimes src p n (occurs src p s)

/-! ### Completion and flush of a NOTICE parcel (R170, R171) -/

/-- What the completion of a NOTICE that carried count `c` does to its flag (R170). -/
def Flag.complete (sticky : Bool) (c : Nat) (x : Flag) : Flag :=
  let rest := x.count - c
  let count := if rest = 0 ∧ x.late = true then 1 else rest
  { state := (if sticky then .announced else if count = 0 then .clear else .pending)
    count := count
    info := x.info
    late := false }

/-- A NOTICE parcel completes its transmission: its flag moves, then the queue reports able. An orphan's
completion moves no flag (R148, R170, R171). -/
def completeNotice (n : NoticeParcel) (s : State) : State :=
  let s' := if n.orphan then s
    else modNotices (fun u => u.setFlag n.flag ((u.flag n.flag).complete n.flag.source.sticky n.count)) s
  reportAble s'

/-- A flushed NOTICE parcel's flag returns from IN_QUEUE to PENDING (R171). -/
def Flag.flush (x : Flag) : Flag := { x with state := if x.state = .inQueue then .pending else x.state }

/-- CLEAR_NOTICE's clearing of a flag (R140, R173). -/
def Flag.cleared (x : Flag) : Flag := if x.state = .clear then x else Flag.reset

end Sys2Proof.Machine
end

