-- ==== Sys2Proof/Machine/Layout.lean ====
section
/-! DEFINITION. The parcel layouts of the head link: bytes and words, the header check (R152), the CRC (R59, R153),
the inbound parcels (R154, R155, R164) and the bytes of the outbound ones (R160, R164). -/

namespace Sys2Proof.Machine

/-! ### Bytes and words: the more significant byte first (R152, R160) -/

def wordBytes (w : Word) : List Byte := [w.extractLsb' 8 8, w.extractLsb' 0 8]

def bytesWord (hi lo : Byte) : Word := hi ++ lo

def dwordBytes (w : BitVec 32) : List Byte :=
  [w.extractLsb' 24 8, w.extractLsb' 16 8, w.extractLsb' 8 8, w.extractLsb' 0 8]

def bytesDword (a b c d : Byte) : BitVec 32 := a ++ b ++ c ++ d

/-- A number as a 16-bit word. -/
def natWord (n : Nat) : Word := BitVec.ofNat 16 n

def natByte (n : Nat) : Byte := BitVec.ofNat 8 n

/-- The bytes of a run of words (R162). -/
def wordsBytes (ws : List Word) : List Byte := ws.flatMap wordBytes

/-- The words of a payload; a byte left over is no word. -/
def bytesWords : List Byte → List Word
  | hi :: lo :: rest => bytesWord hi lo :: bytesWords rest
  | _ => []

/-! ### CRC-32 (R59) -/

/-- The polynomial 0x04C11DB7, bit-reversed because input and output are reflected (R59). -/
def crcPoly : BitVec 32 := 0xEDB88320#32

def crcInit : BitVec 32 := 0xFFFFFFFF#32

def crcBit (c : BitVec 32) : BitVec 32 := if c.getLsbD 0 then (c >>> 1) ^^^ crcPoly else c >>> 1

/-- One byte folded in, least significant bit first (R59). -/
def crcByte (c : BitVec 32) (b : Byte) : BitVec 32 :=
  crcBit (crcBit (crcBit (crcBit (crcBit (crcBit (crcBit (crcBit (c ^^^ b.setWidth 32))))))))

def crcFold (c : BitVec 32) (bs : List Byte) : BitVec 32 := bs.foldl crcByte c

/-- The final step: the result is inverted (R59). -/
def crcFinal (c : BitVec 32) : BitVec 32 := ~~~c

/-- The CRC of a run of bytes (R59, R153). -/
def crc32 (bs : List Byte) : BitVec 32 := crcFinal (crcFold crcInit bs)

/-- The bytes of a pixel: red, green, blue. -/
def pixelBytes (px : Pixel) : List Byte := [px.red, px.green, px.blue]

def pixelsBytes (pxs : List Pixel) : List Byte := pxs.flatMap pixelBytes

/-- The pixels of a LINE payload; bytes left over are no pixel. -/
def bytesPixels : List Byte → List Pixel
  | r :: g :: b :: rest => ⟨r, g, b⟩ :: bytesPixels rest
  | _ => []

/-! ### The header (R152, R164) -/

/-- The sync value. -/
def syncByte : Byte := 0xA7#8

/-- The header check: what, added to the sum of the three header words, gives 0xFFFF (R152). -/
def headerCheck (w0 w1 w2 : Word) : Word := 0xFFFF#16 - (w0 + w1 + w2)

/-- The eight bytes of a header (R164). -/
def headerBytes (kind panel tag : Byte) (len : Nat) : List Byte :=
  let w0 := bytesWord syncByte kind
  let w1 := bytesWord panel tag
  let w2 := natWord len
  wordBytes w0 ++ wordBytes w1 ++ wordBytes w2 ++ wordBytes (headerCheck w0 w1 w2)

/-- The fields of a received header. -/
structure Header where
  sync : Byte
  kind : Byte
  panel : Byte
  tag : Byte
  len : Word
  check : Word
deriving DecidableEq, Repr

/-- The fields of eight header bytes. -/
def Header.ofBytes : List Byte → Option Header
  | [b0, b1, b2, b3, b4, b5, b6, b7] => some ⟨b0, b1, b2, b3, bytesWord b4 b5, bytesWord b6 b7⟩
  | _ => none

/-- The header check is good when the sum with the received check gives 0xFFFF (R152). -/
def Header.checkGood (h : Header) : Bool :=
  decide (bytesWord h.sync h.kind + bytesWord h.panel h.tag + h.len + h.check = 0xFFFF#16)

/-! ### Inbound kinds (R164) -/

inductive InKind where | frameOpen | line | frameClose | writeEntry | readEntry | command
deriving DecidableEq, Repr

def InKind.code : InKind → Byte
  | .frameOpen => 0x01 | .line => 0x02 | .frameClose => 0x03 | .writeEntry => 0x10 | .readEntry => 0x11
  | .command => 0x12

def InKind.ofCode (b : Byte) : Option InKind :=
  if b = 0x01#8 then some .frameOpen
  else if b = 0x02#8 then some .line
  else if b = 0x03#8 then some .frameClose
  else if b = 0x10#8 then some .writeEntry
  else if b = 0x11#8 then some .readEntry
  else if b = 0x12#8 then some .command
  else none

/-- The size of the parameter block in bytes (R164). -/
def InKind.paramSize : InKind → Nat
  | .frameOpen => 2 | .line => 4 | .frameClose => 2 | .writeEntry => 4 | .readEntry => 4 | .command => 4

/-- The payload length suits the kind (R154, check 4; R164). A WRITE_ENTRY's is checked with its table (R155). -/
def InKind.lengthSuits (k : InKind) (len : Nat) : Bool :=
  match k with
  | .frameOpen => len == 0
  | .line => len % 3 == 0
  | .frameClose => len == 0
  | .writeEntry => true
  | .readEntry => len == 0
  | .command => len == 0

/-- What becomes of a completed header (R154). -/
inductive HeaderVerdict where | badCheck | badKind | tooLong | body
deriving DecidableEq, Repr

/-- The header checks in their order (R154). A length that does not suit the kind still goes on to BODY. -/
def Header.examine (h : Header) : HeaderVerdict :=
  if h.checkGood = false then .badCheck
  else match InKind.ofCode h.kind with
    | none => .badKind
    | some _ => if h.len.toNat > maxPayload then .tooLong else .body

/-- HUNT resumed over some bytes: those before the next sync value are dropped (R154). -/
def resumeHunt : List Byte → Receiver
  | [] => .hunt
  | b :: bs => if b = syncByte then .header (b :: bs) else resumeHunt bs

/-! ### Whole inbound parcels (R155, R156) -/

/-- The command a COMMAND parcel's code names (R164). -/
def commandOf (panel tag code source : Byte) : Instr :=
  if code = 0x01#8 then .commit panel tag
  else if code = 0x02#8 then .startPanel panel tag
  else if code = 0x03#8 then .stopPanel panel tag
  else if code = 0x04#8 then .restartPanel panel tag
  else if code = 0x05#8 then .lockSupervision panel tag
  else if code = 0x06#8 then .clearNotice panel tag source
  else if code = 0x07#8 then .resetBaseline panel tag
  else if code = 0x08#8 then .resetPart panel tag
  else .unknownCommand panel tag code

/-- The panel a panel field names; other values name none (R155, R136). -/
def panelOf (b : Byte) : Option Panel := if b = 0#8 then some .p0 else if b = 1#8 then some .p1 else none

def panelByte : Panel → Byte | .p0 => 0 | .p1 => 1

/-- What a parcel that passes R155 is handed on as, from its header, parameter block and payload (R156). -/
def handOn (h : Header) (k : InKind) (params payload : List Byte) : Option Instr :=
  match k, params with
  | .frameOpen, [a, b] => (panelOf h.panel).map fun p => .frameOpen p (bytesWord a b)
  | .frameClose, [a, b] => (panelOf h.panel).map fun p => .frameClose p (bytesWord a b)
  | .line, [a, b, c, d] =>
    (panelOf h.panel).map fun p => .line p (bytesWord a b) (bytesWord c d) (bytesPixels payload)
  | .writeEntry, [t, _, c, d] =>
    if payloadSuits t payload then some (.writeEntry h.panel h.tag t (bytesWord c d) payload) else none
  | .readEntry, [t, cp, c, d] => some (.readEntry h.panel h.tag t cp (bytesWord c d))
  | .command, [code, src, _, _] => some (commandOf h.panel h.tag code src)
  | _, _ => none

/-- The bytes of a whole parcel: header, parameter block, payload, CRC, by the header's kind and length; none
where they are not one complete parcel that reaches its last byte in BODY (R154). -/
def splitParcel (bytes : List Byte) : Option (Header × InKind × List Byte × List Byte × List Byte) :=
  match Header.ofBytes (bytes.take 8) with
  | none => none
  | some h =>
    match InKind.ofCode h.kind with
    | none => none
    | some k =>
      if h.sync = syncByte ∧ h.examine = .body ∧ bytes.length = 8 + k.paramSize + h.len.toNat + 4 then
        some (h, k, (bytes.drop 8).take k.paramSize, (bytes.drop (8 + k.paramSize)).take h.len.toNat,
          bytes.drop (8 + k.paramSize + h.len.toNat))
      else none

/-- The checks of R155 on a complete parcel, in their order; what is handed on, or none for a parcel that is
discarded with BAD_PARCEL. -/
def parseParcel (bytes : List Byte) : Option Instr :=
  match splitParcel bytes with
  | none => none
  | some (h, k, params, payload, crc) =>
    if k.lengthSuits h.len.toNat && decide (crc = dwordBytes (crc32 (bytes.take (bytes.length - 4)))) then
      handOn h k params payload
    else none

/-- The kind code, panel field, tag, parameter block and payload of the parcel a command stands for; none for a
command that is no parcel (R164). -/
def parcelParts : Instr → Option (InKind × Byte × Byte × List Byte × List Byte)
  | .frameOpen p f => some (.frameOpen, panelByte p, 0, wordBytes f, [])
  | .frameClose p f => some (.frameClose, panelByte p, 0, wordBytes f, [])
  | .line p f y pxs => some (.line, panelByte p, 0, wordBytes f ++ wordBytes y, pixelsBytes pxs)
  | .writeEntry p t tb i pl => some (.writeEntry, p, t, [tb, 0] ++ wordBytes i, pl)
  | .readEntry p t tb cp i => some (.readEntry, p, t, [tb, cp] ++ wordBytes i, [])
  | .commit p t => some (.command, p, t, [0x01, 0, 0, 0], [])
  | .startPanel p t => some (.command, p, t, [0x02, 0, 0, 0], [])
  | .stopPanel p t => some (.command, p, t, [0x03, 0, 0, 0], [])
  | .restartPanel p t => some (.command, p, t, [0x04, 0, 0, 0], [])
  | .lockSupervision p t => some (.command, p, t, [0x05, 0, 0, 0], [])
  | .clearNotice p t src => some (.command, p, t, [0x06, src, 0, 0], [])
  | .resetBaseline p t => some (.command, p, t, [0x07, 0, 0, 0], [])
  | .resetPart p t => some (.command, p, t, [0x08, 0, 0, 0], [])
  | .unknownCommand p t code => some (.command, p, t, [code, 0, 0, 0], [])
  | .powerOnReset | .signalDetect | .trainingSuccess | .alignmentLoss | .signalLoss | .headerComplete _
  | .inboundParcelDiscard _ | .transmissionStart | .transmissionComplete | .acquireEdge _ | .lossEdge _
  | .driveSlotEnd _ | .blankLineEnd _ | .stretchLineBoundary _ | .stretchExpiry _ | .waitDeadline _
  | .switchGapEnd _ | .setupGapEnd _ | .burstComplete _ _ _ | .holdGapEnd _ | .resetRelease
  | .syncValueReceived => none

/-- The bytes of a parcel before its CRC, then its CRC (R152, R153, R164). -/
def withCrc (body : List Byte) : List Byte := body ++ dwordBytes (crc32 body)

/-- The bytes of the parcel a command stands for. -/
def parcelBytes (c : Instr) : Option (List Byte) :=
  (parcelParts c).map fun (k, panel, tag, params, payload) =>
    withCrc (headerBytes k.code panel tag payload.length ++ params ++ payload)

/-! ### Outbound parcels (R160, R164) -/

def presence (f : Option Word) : Byte := if f.isSome then 1 else 0

def Status.code : Status → Byte
  | .ok => 0x00 | .badTable => 0x01 | .badIndex => 0x02 | .badValue => 0x03 | .badTimeline => 0x04
  | .badCombo => 0x05 | .overlap => 0x06 | .noSpace => 0x07 | .pending => 0x08 | .locked => 0x09
  | .state => 0x0A | .badCmd => 0x0B

def Disposition.code : Disposition → Byte
  | .none => 0 | .applied => 1 | .pending => 2

def RequestKind.code : RequestKind → Byte
  | .writeEntry => 0x10 | .readEntry => 0x11 | .command => 0x12

def ContentMode.code : ContentMode → Byte
  | .live => 0 | .safe => 1

/-- A header, parameter block and payload with header check and CRC (R152, R153). -/
def outBytes (kind panel tag : Byte) (params payload : List Byte) : List Byte :=
  withCrc (headerBytes kind panel tag payload.length ++ params ++ payload)

def ReplyParcel.bytes (r : ReplyParcel) : List Byte :=
  outBytes 0x81 r.panel r.tag
    ([r.kind.code, r.status.code, r.disposition.code, r.detailTable] ++
      wordBytes (match r.detailIndex with | some i => natWord i | none => 0xFFFF#16))
    (wordsBytes r.entry)

def NoticeParcel.bytes (n : NoticeParcel) : List Byte :=
  outBytes 0x82 (match n.flag with | .part _ => 0xFF#8 | .panel _ p => panelByte p) 0
    ([natByte n.flag.source.code, natByte n.count, presence n.scanFrame, 0] ++ wordBytes (n.scanFrame.getD 0) ++
      wordBytes n.info) []

/-- A contact: column, row, delta in two's complement (R164). -/
def Contact.bytes (c : Contact) : List Byte :=
  [natByte c.col, natByte c.row] ++ wordBytes (BitVec.ofInt 16 c.delta)

/-- Bit 0 NOISY, bit 1 TRUNCATED, bit 2 COALESCED (R164). -/
def TouchParcel.flagsByte (t : TouchParcel) : Byte :=
  natByte ((if t.noisy then 1 else 0) + (if t.truncated then 2 else 0) + (if t.coalesced then 4 else 0))

def TouchParcel.bytes (t : TouchParcel) : List Byte :=
  outBytes 0x83 (panelByte t.panel) 0
    (wordBytes t.cycle ++ [natByte t.hop, natByte t.spanned, t.flagsByte, natByte t.contacts.length])
    (t.contacts.flatMap Contact.bytes)

def CheckEntry.bytes (e : CheckEntry) : List Byte :=
  [natByte e.region, 0] ++ wordBytes (natWord e.substituted) ++ dwordBytes e.crc

def CheckParcel.bytes (c : CheckParcel) : List Byte :=
  outBytes 0x84 (panelByte c.panel) 0
    ([presence c.scanFrame, c.mode.code, natByte c.skipped, natByte c.entries.length] ++
      wordBytes (c.scanFrame.getD 0))
    (c.entries.flatMap CheckEntry.bytes)

def CaptureParcel.bytes (c : CaptureParcel) : List Byte :=
  outBytes 0x85 (panelByte c.panel) 0
    ([presence c.scanFrame, c.mode.code] ++ wordBytes (c.scanFrame.getD 0) ++ wordBytes (natWord c.lineNo) ++
      wordBytes (natWord c.width))
    (pixelsBytes c.pixels)

/-- The bytes sent for an outbound parcel (R160). -/
def OutParcel.bytes : OutParcel → List Byte
  | .reply r => r.bytes
  | .notice n => n.bytes
  | .touch t => t.bytes
  | .check c => c.bytes
  | .capture c => c.bytes

end Sys2Proof.Machine
end

