-- ==== Sys2Proof/Machine/Operands.lean ====
section
/-! DEFINITION. The operands of management requests: table codes, and the encoding of table and status entries as
runs of 16-bit words (R131, R162, R163, R164). -/

namespace Sys2Proof.Machine

/-! ### Tables (R126, R164) -/

inductive TableId where
  | panelDescriptor | frameTimeline | regionTable | groupTable | hopTable | noticePriority | panelStatus
  | noticeTable | cellState | poolStatus
deriving DecidableEq, Repr

def TableId.code : TableId → Byte
  | .panelDescriptor => 0x01 | .frameTimeline => 0x02 | .regionTable => 0x03 | .groupTable => 0x04
  | .hopTable => 0x05 | .noticePriority => 0x06 | .panelStatus => 0x07 | .noticeTable => 0x08
  | .cellState => 0x09 | .poolStatus => 0x0A

/-- The table a code names; none for any other code (R130, R134). -/
def TableId.ofCode (b : Byte) : Option TableId :=
  if b = 0x01#8 then some .panelDescriptor
  else if b = 0x02#8 then some .frameTimeline
  else if b = 0x03#8 then some .regionTable
  else if b = 0x04#8 then some .groupTable
  else if b = 0x05#8 then some .hopTable
  else if b = 0x06#8 then some .noticePriority
  else if b = 0x07#8 then some .panelStatus
  else if b = 0x08#8 then some .noticeTable
  else if b = 0x09#8 then some .cellState
  else if b = 0x0A#8 then some .poolStatus
  else none

/-- The number of entries of a panel table (R126). -/
def TableId.size : TableId → Nat
  | .panelDescriptor => 1 | .frameTimeline => 48 | .regionTable => 16 | .groupTable => 64 | .hopTable => 8
  | _ => 0

/-! ### Fields (R162) -/

/-- Word `i` of an entry. -/
def wordAt (ws : List Word) (i : Nat) : Word := ws.getD i 0

/-- A number field: the word itself, within its range. -/
def numField (ws : List Word) (i lo hi : Nat) : Option Nat :=
  let n := (wordAt ws i).toNat
  if lo ≤ n ∧ n ≤ hi then some n else none

/-- A "no, yes" or "OFF, ON" field: position 0 or 1. -/
def boolField (ws : List Word) (i : Nat) : Option Bool :=
  if wordAt ws i = 0#16 then some false else if wordAt ws i = 1#16 then some true else none

/-- An enumeration field: the value at the position the word gives in the rule's list. -/
def enumField {α : Type} (vals : List α) (ws : List Word) (i : Nat) : Option α := vals[(wordAt ws i).toNat]?

def boolWord (b : Bool) : Word := if b then 1 else 0

def RefreshMode.word : RefreshMode → Word | .fixed => 0 | .adaptive => 1
def MarkerBinding.word : MarkerBinding → Word | .notice => 0 | .capture => 1
def LockEdgeSelect.word : LockEdgeSelect → Word | .none => 0 | .acquire => 1 | .loss => 2 | .both => 3
def MissingPolicy.word : MissingPolicy → Word | .repeatPrev => 0 | .fill => 1
def SegKind.word : SegKind → Word | .drive => 0 | .sense => 1 | .blank => 2 | .stop => 3
def RegionSource.word : RegionSource → Word | .host => 0 | .retained => 1

/-- The line marker: 0xFFFF for off, otherwise the line number 0 to 1599 (R127, R162). -/
def markerField (ws : List Word) (i : Nat) : Option (Option Nat) :=
  if wordAt ws i = 0xFFFF#16 then some none else (numField ws i 0 1599).map some

/-- A Hop Table frequency: 0 for none, otherwise 50 to 500 kHz in steps of 5 (R123, R162). -/
def hopField (ws : List Word) (i : Nat) : Option (Option Nat) :=
  let n := (wordAt ws i).toNat
  if n = 0 then some none else if 50 ≤ n ∧ n ≤ 500 ∧ n % 5 = 0 then some (some n) else none

def byteField (ws : List Word) (i : Nat) : Option Byte := (numField ws i 0 255).map natByte

/-! ### Entries (R127, R131, R162) -/

/-- Stretch sensing's list is "ON, OFF", so ON is position 0 (R22, R127, R162). -/
def decodeDescriptor (ws : List Word) : Option PanelDescriptor := do
  let width ← numField ws 0 64 2560
  let activeLines ← numField ws 1 64 1600
  let linePeriod ← numField ws 2 200 6000
  let refresh ← enumField [RefreshMode.fixed, .adaptive] ws 3
  let stretchLimit ← numField ws 4 0 4095
  let stretchSensing ← enumField [true, false] ws 5
  let prestartLead ← numField ws 6 0 255
  let marker ← markerField ws 7
  let binding ← enumField [MarkerBinding.notice, .capture] ws 8
  let edgeSelect ← enumField [LockEdgeSelect.none, .acquire, .loss, .both] ws 9
  let quota ← numField ws 10 4 88
  let policy ← enumField [MissingPolicy.repeatPrev, .fill] ws 11
  let red ← byteField ws 12
  let green ← byteField ws 13
  let blue ← byteField ws 14
  let tolerance ← numField ws 15 0 255
  let staleLimit ← numField ws 16 0 15
  let sensePriority ← numField ws 17 0 3
  let burstLength ← numField ws 18 20 400
  let switchGap ← numField ws 19 0 255
  let setupGap ← numField ws 20 0 255
  let holdGap ← numField ws 21 0 255
  let waitLimit ← numField ws 22 0 2000
  let columns ← numField ws 23 1 64
  let rows ← numField ws 24 1 48
  let pitchX ← numField ws 25 1 255
  let pitchY ← numField ws 26 1 255
  let touchThreshold ← numField ws 27 1 32767
  let releaseThreshold ← numField ws 28 1 32767
  let driftStep ← numField ws 29 0 255
  let maxContacts ← numField ws 30 1 16
  let noiseThreshold ← numField ws 31 0 65535
  let hopTrigger ← numField ws 32 1 15
  pure
    { width := width, activeLines := activeLines, linePeriod := linePeriod, refresh := refresh,
      stretchLimit := stretchLimit, stretchSensing := stretchSensing, prestartLead := prestartLead,
      marker := marker, binding := binding, edgeSelect := edgeSelect, quota := quota, policy := policy,
      fill := ⟨red, green, blue⟩, tolerance := tolerance, staleLimit := staleLimit,
      sensePriority := sensePriority, burstLength := burstLength, switchGap := switchGap,
      setupGap := setupGap, holdGap := holdGap, waitLimit := waitLimit, columns := columns, rows := rows,
      pitchX := pitchX, pitchY := pitchY, touchThreshold := touchThreshold,
      releaseThreshold := releaseThreshold, driftStep := driftStep, maxContacts := maxContacts,
      noiseThreshold := noiseThreshold, hopTrigger := hopTrigger }

def encodeDescriptor (d : PanelDescriptor) : List Word :=
  [natWord d.width, natWord d.activeLines, natWord d.linePeriod, d.refresh.word, natWord d.stretchLimit,
   boolWord (!d.stretchSensing), natWord d.prestartLead,
   (match d.marker with | none => 0xFFFF#16 | some y => natWord y),
   d.binding.word, d.edgeSelect.word, natWord d.quota, d.policy.word,
   d.fill.red.setWidth 16, d.fill.green.setWidth 16, d.fill.blue.setWidth 16,
   natWord d.tolerance, natWord d.staleLimit, natWord d.sensePriority, natWord d.burstLength,
   natWord d.switchGap, natWord d.setupGap, natWord d.holdGap, natWord d.waitLimit, natWord d.columns,
   natWord d.rows, natWord d.pitchX, natWord d.pitchY, natWord d.touchThreshold, natWord d.releaseThreshold,
   natWord d.driftStep, natWord d.maxContacts, natWord d.noiseThreshold, natWord d.hopTrigger]

/-- The range check of a Frame Timeline entry by its kind; fields the kind does not use are stored without a
check (R20, R131). -/
def Segment.inRange (e : Segment) : Bool :=
  match e.kind with
  | .drive => decide (1 ≤ e.lineCount.toNat ∧ e.lineCount.toNat ≤ 1600)
  | .blank => decide (1 ≤ e.lineCount.toNat ∧ e.lineCount.toNat ≤ 1023)
  | .sense => decide (1 ≤ e.groupCount.toNat ∧ e.groupCount.toNat ≤ 8 ∧ e.yieldCode.toNat ≤ 1)
  | .stop => true

def decodeSegment (ws : List Word) : Option Segment := do
  let kind ← enumField [SegKind.drive, .sense, .blank, .stop] ws 0
  let e : Segment := ⟨kind, wordAt ws 1, wordAt ws 2, wordAt ws 3⟩
  if e.inRange then pure e else none

def encodeSegment (e : Segment) : List Word := [e.kind.word, e.lineCount, e.groupCount, e.yieldCode]

def decodeRegion (ws : List Word) : Option Region := do
  let valid ← boolField ws 0
  let x0 ← numField ws 1 0 2559
  let x1 ← numField ws 2 0 2559
  let y0 ← numField ws 3 0 1599
  let y1 ← numField ws 4 0 1599
  let source ← enumField [RegionSource.host, .retained] ws 5
  let capture ← boolField ws 6
  let mask ← boolField ws 7
  let check ← boolField ws 8
  let firstBlock ← numField ws 9 0 63
  let locked ← boolField ws 10
  pure ⟨valid, x0, x1, y0, y1, source, capture, mask, check, firstBlock, locked⟩

def encodeRegion (r : Region) : List Word :=
  [boolWord r.valid, natWord r.x0, natWord r.x1, natWord r.y0, natWord r.y1, r.source.word, boolWord r.capture,
   boolWord r.mask, boolWord r.check, natWord r.firstBlock, boolWord r.locked]

def decodeGroup (ws : List Word) : Option Group := do
  let inUse ← boolField ws 0
  let row ← numField ws 1 0 47
  let col ← numField ws 2 0 63
  let width ← numField ws 3 1 32
  pure ⟨inUse, row, col, width⟩

def encodeGroup (g : Group) : List Word := [boolWord g.inUse, natWord g.row, natWord g.col, natWord g.width]

def encodeHop (h : Option Nat) : List Word := [match h with | none => 0 | some n => natWord n]

/-- One entry of a table that can be written. -/
inductive Entry where
  | descriptor (d : PanelDescriptor)
  | segment (e : Segment)
  | region (r : Region)
  | group (g : Group)
  | hop (h : Option Nat)
  | priority (n : Nat)
deriving DecidableEq, Repr

/-- The BAD_VALUE check of a write: the entry the words spell, or none where a field is out of its range (R131). -/
def decodeEntry (t : TableId) (ws : List Word) : Option Entry :=
  match t with
  | .panelDescriptor => (decodeDescriptor ws).map .descriptor
  | .frameTimeline => (decodeSegment ws).map .segment
  | .regionTable => (decodeRegion ws).map .region
  | .groupTable => (decodeGroup ws).map .group
  | .hopTable => (hopField ws 0).map .hop
  | .noticePriority => (numField ws 0 0 3).map .priority
  | .panelStatus => none
  | .noticeTable => none
  | .cellState => none
  | .poolStatus => none

/-- The words of an entry (R162). -/
def encodeEntry : Entry → List Word
  | .descriptor d => encodeDescriptor d
  | .segment e => encodeSegment e
  | .region r => encodeRegion r
  | .group g => encodeGroup g
  | .hop h => encodeHop h
  | .priority n => [natWord n]

/-- A write replaces the staged entry whole (R130). -/
def Tables.put (t : Tables) (i : Nat) : Entry → Tables
  | .descriptor d => { t with pd := d }
  | .segment e => { t with timeline := t.timeline.setIfInBounds i e }
  | .region r => { t with regions := t.regions.setIfInBounds i r }
  | .group g => { t with groups := t.groups.setIfInBounds i g }
  | .hop h => { t with hops := t.hops.setIfInBounds i h }
  | .priority _ => t

/-- The words of entry `i` of one copy of a panel table; none where the table has no such entry (R134, R162). -/
def Tables.entryWords (t : Tables) (id : TableId) (i : Nat) : Option (List Word) :=
  match id with
  | .panelDescriptor => if i = 0 then some (encodeDescriptor t.pd) else none
  | .frameTimeline => (t.timeline[i]?).map encodeSegment
  | .regionTable => (t.regions[i]?).map encodeRegion
  | .groupTable => (t.groups[i]?).map encodeGroup
  | .hopTable => (t.hops[i]?).map encodeHop
  | .noticePriority => none
  | .panelStatus => none
  | .noticeTable => none
  | .cellState => none
  | .poolStatus => none

/-! ### Status entries (R128, R163) -/

def FlagState.word : FlagState → Word | .clear => 0 | .pending => 1 | .inQueue => 2 | .announced => 3
def PanelRun.word : PanelRun → Word | .disabled => 0 | .syncing => 1 | .running => 2 | .stretch => 3
def SensePhase.word : SensePhase → Word
  | .none => 0 | .request => 1 | .switch => 2 | .setup => 3 | .burst => 4 | .hold => 5
def ContentMode.word : ContentMode → Word | .live => 0 | .safe => 1

/-- A frame number that may be none: a presence word, then the number or 0 (R163). -/
def frameWords (f : Option Word) : List Word := [boolWord f.isSome, f.getD 0]

/-- A ticket that may be none: presence, frame number, OPEN 0 or CLOSED 1, lines accepted (R163). Of a ticket that is none
R163 gives the presence word 0 and the number 0; that its state and lines accepted are 0 too is the model's choice (DESIGN
CHOICE, log 34). -/
def ticketWords : Option Ticket → List Word
  | none => [0, 0, 0, 0]
  | some t => [1, t.frame, (match t.state with | .opened => 0 | .closed => 1), natWord t.accepted]

/-- The slots a panel holds outside its queue (R1, R12). -/
def Ingress.held (g : Ingress) : Nat := (if g.driving.isSome then 1 else 0) + (if g.lastHost.isSome then 1 else 0)

/-- The halves a panel holds: 1 for A, 2 for B, 3 for both (R163). -/
def State.halvesHeld (s : State) (p : Panel) : Nat :=
  (if s.arb.a.holder = some p then 1 else 0) + (if s.arb.b.holder = some p then 2 else 0)

/-- A reservation is held for the panel (R84). -/
def State.reservedFor (s : State) (p : Panel) : Bool :=
  match s.arb.reservation with
  | some r => decide (r.panel = p)
  | none => false

/-- The 37 words of Panel Status (R163). -/
def State.panelStatus (s : State) (p : Panel) : List Word :=
  let q := s.seq p
  let g := s.ingress p
  [q.run.word, (match q.segment with | some i => natWord i | none => 0xFFFF#16), q.phase.word, natWord q.linePos,
   natWord q.stretchCount, boolWord q.locked] ++
  frameWords (s.scanFrame p) ++ frameWords g.lastScan ++
  ticketWords g.scan ++ ticketWords g.waiting[0]? ++ ticketWords g.waiting[1]? ++
  [natWord g.queue.length, natWord g.held, natWord g.missing, (s.sup p).mode.word, natWord (s.sup p).stale,
   boolWord (s.mgmt p).supLock,
   (match (s.claim p).request with
    | none => 0
    | some r => match r.cls with | .timeline => 1 | .free => 2),
   (match (s.claim p).request with | none => 0xFFFF#16 | some r => natWord r.need),
   natWord (s.halvesHeld p), boolWord (s.reservedFor p), natWord (s.touch p).cursor, (s.touch p).cycle,
   natWord (s.touch p).hop, boolWord (s.mgmt p).commitPending, boolWord (s.mgmt p).committed]

/-- The words of Pool Status (R1, R163). -/
def State.poolStatus (s : State) : List Word :=
  [natWord s.freeSlots, natWord (s.ingress .p0).queue.length, natWord (s.ingress .p1).queue.length,
   natWord (s.ingress .p0).held, natWord (s.ingress .p1).held]

/-- The words of a Cell State entry: index row × matrix columns + column (R108, R163). -/
def State.cellWords (s : State) (p : Panel) (i : Nat) : List Word :=
  let c := Sparse.get Cell.reset (s.touch p).cells (cellKey (i % (s.pd p).columns) (i / (s.pd p).columns))
  [c.raw, c.baseline, boolWord c.contact]

/-- The words of a Notice Table entry (R128, R163). -/
def State.flagWords (s : State) (f : FlagId) : List Word :=
  [(s.flag f).state.word, natWord (s.flag f).count, natWord (s.notices.prio f.source)]

end Sys2Proof.Machine
end

