-- ==== Sys2Proof/Machine/Outbound.lean ====
section
/-! DEFINITION. The Head Link Port's shared operations: offers to the Outbound Queue (R158, R159), the flush (R151,
R161), the arrival of a parcel (R154 to R157) and the building of replies (R129). -/

namespace Sys2Proof.Machine

/-! ### The Outbound Queue -/

/-- The queue takes TOUCH and CHECK parcels while the link is UP (R159). -/
def State.linkUp (s : State) : Bool := decide (s.link.state = .up)

/-- The entry whose transmission has begun, as a list of one or none: the head of the queue (R160). -/
def Link.begun (l : Link) : List OutParcel := if l.sending.isSome then l.queue.take 1 else []

/-- The entries whose transmission has not begun (R159). -/
def Link.unsent (l : Link) : List OutParcel := if l.sending.isSome then l.queue.drop 1 else l.queue

/-- Replace the first parcel that `f` replaces, in its place; none where there is none. -/
def replaceFirst (f : OutParcel → Option OutParcel) : List OutParcel → Option (List OutParcel)
  | [] => none
  | x :: xs =>
    match f x with
    | some y => some (y :: xs)
    | none => (replaceFirst f xs).map (x :: ·)

/-- An unsent parcel is replaced in its place, and where there is none the new one is appended (R158, R159). -/
def replaceOrAppend (f : OutParcel → Option OutParcel) (new : OutParcel) (l : Link) : Link :=
  match replaceFirst f l.unsent with
  | some q => { l with queue := l.begun ++ q }
  | none => { l with queue := l.queue ++ [new] }

/-- The report that replaces a waiting TOUCH of the same panel, with COALESCED set (R119). -/
def coalesceTouch (t : TouchParcel) : OutParcel → Option OutParcel
  | .touch u => if u.panel = t.panel then some (.touch { t with coalesced := true }) else none
  | _ => none

/-- The parcel that replaces a waiting CHECK of the same panel, counting the frame it skips (R62). -/
def overtakeCheck (c : CheckParcel) : OutParcel → Option OutParcel
  | .check d => if d.panel = c.panel then some (.check { c with skipped := min 255 (d.skipped + 1) }) else none
  | _ => none

/-- A TOUCH report is offered (R119, R159). -/
def offerTouch (t : TouchParcel) (s : State) : State :=
  if s.linkUp then
    modLink (replaceOrAppend (coalesceTouch t) (.touch { t with coalesced := false })) s
  else s

/-- A CHECK parcel is offered (R62, R159). -/
def offerCheck (c : CheckParcel) (s : State) : State :=
  if s.linkUp then modLink (replaceOrAppend (overtakeCheck c) (.check { c with skipped := 0 })) s else s

def OutParcel.isReply : OutParcel → Bool | .reply _ => true | _ => false
def OutParcel.isNotice : OutParcel → Bool | .notice _ => true | _ => false
def OutParcel.isCapture : OutParcel → Bool | .capture _ => true | _ => false

/-- The queue takes a CAPTURE parcel while the link is UP and fewer than 8 are in it (R159). -/
def State.takesCapture (s : State) : Bool :=
  s.linkUp && decide (s.link.queue.countP OutParcel.isCapture < Config.captureCap)

/-- A parcel is appended to the queue. -/
def append (x : OutParcel) (s : State) : State := modLink (fun l => { l with queue := l.queue ++ [x] }) s

/-- A REPLY is offered and taken; the reply count rises by 1 (R129, R157). -/
def offerReply (r : ReplyParcel) (s : State) : State :=
  modLink (fun l => { l with queue := l.queue ++ [.reply r], replyCount := l.replyCount + 1 }) s

/-! ### Leaving UP (R151, R161, R171) -/

/-- The consequence of one parcel's removal by the flush (R161). -/
def flushed : OutParcel → State → State
  | .reply _, s => s
  | .notice n, s => if n.orphan then s else modNotices (fun u => u.setFlag n.flag (u.flag n.flag).flush) s
  | .touch t, s => modTouch t.panel (fun x => { x with lastHad := true }) s
  | .check _, s => s
  | .capture _, s => s

/-- The consequences of the removal of each parcel of a queue, oldest first (R161). -/
def flushAll : List OutParcel → State → State
  | [], s => s
  | x :: xs, s => flushAll xs (flushed x s)

/-- The link leaves UP: the parcel in reception is discarded, the queue is flushed, the reply count becomes 0
and the Notice Unit is not able (R151, R161, R168). -/
def leaveUp (dest : LinkState) (s : State) : State :=
  let s1 := modNotices (fun u => { u with able := false }) { s with link := { Link.reset with state := dest } }
  flushAll s.link.queue s1

/-! ### Arrival of parcels (R154 to R157; log 4) -/

/-- The header in reception is the one of the command's parcel. Of frame markers and lines the tag is not used. -/
def headerMatches (hb : List Byte) (k : InKind) (panel tag : Byte) (len : Nat) : Bool :=
  match Header.ofBytes hb with
  | none => false
  | some h =>
    decide (h.kind = k.code) && decide (h.panel = panel) && decide (h.len = natWord len) &&
      (match k with
       | .frameOpen => true
       | .line => true
       | .frameClose => true
       | .writeEntry => decide (h.tag = tag)
       | .readEntry => decide (h.tag = tag)
       | .command => decide (h.tag = tag))

/-- The parcel of the command can complete: the link is UP, and the receiver is in BODY with its header, or in
HUNT, from where the whole parcel is received (log 4). -/
def arrives (c : Instr) (s : State) : Bool :=
  c.wf && s.linkUp && !s.resetPin &&
    match parcelParts c with
    | none => false
    | some (k, panel, tag, _, payload) =>
      match s.link.rx with
      | .hunt => true
      | .header _ => false
      | .body hb => headerMatches hb k panel tag payload.length

/-- The receiver returns to HUNT with no parcel in reception (R154). -/
def toHunt (s : State) : State := modLink (fun l => { l with rx := .hunt }) s

/-- A parcel that passes R155 arrives: the receiver returns to HUNT and the parcel is handed on (R156). -/
def onArrival (c : Instr) (handle : State → State) (s : State) : State :=
  if arrives c s then handle (toHunt s) else s

/-- A management parcel arrives: it is executed where fewer than 4 replies are queued, and otherwise discarded
with MGMT_DROP (R157). -/
def onRequest (c : Instr) (execute : State → State) (s : State) : State :=
  onArrival c (fun s =>
    if s.link.replyCount < Config.replyCap then execute s else occur (.part .mgmtDrop) 0 s) s

/-- BAD_PARCEL occurs (R154, R155). -/
def badParcel (s : State) : State := occur (.part .badParcel) 0 s

/-! ### Replies (R129) -/

/-- A reply that carries a status alone. -/
def plainReply (kind : RequestKind) (panel tag : Byte) (st : Status) : ReplyParcel :=
  { kind := kind, panel := panel, tag := tag, status := st, disposition := .none, detailTable := 0,
    detailIndex := none, entry := [] }

/-- The reply to a COMMAND that carries a status alone. -/
def replyCommand (panel tag : Byte) (st : Status) (s : State) : State :=
  offerReply (plainReply .command panel tag st) s

end Sys2Proof.Machine
end

