-- ==== Sys2Proof/Machine/Ingress.lean ====
section
/-! DEFINITION. The Ingress Unit and the Line Pool: tickets, the Line Queue, resolution, held slots, purges (spec/01). -/

namespace Sys2Proof.Machine

/-! ### Tickets (R3 to R6) -/

/-- The tickets of a panel in the order scan, oldest waiting, newest waiting (R3). -/
def Ingress.tickets (g : Ingress) : List Ticket := g.scan.toList ++ g.waiting

/-- The OPEN ticket (R3). -/
def Ingress.openTicket (g : Ingress) : Option Ticket := g.tickets.find? fun t => decide (t.state = .opened)

/-- The reference frame: the newest waiting ticket's, else the scan ticket's, else the last scan frame (R4). -/
def Ingress.reference (g : Ingress) : Option Word :=
  match g.waiting.getLast? with
  | some t => some t.frame
  | none =>
    match g.scan with
    | some t => some t.frame
    | none => g.lastScan

/-- A frame number passes the reference check (R4). -/
def Ingress.passesReference (g : Ingress) (f : Word) : Bool :=
  match g.reference with
  | none => true
  | some r => ahead f r

/-- Apply `f` to every ticket of the panel. -/
def Ingress.mapTickets (f : Ticket → Ticket) (g : Ingress) : Ingress :=
  { g with scan := g.scan.map f, waiting := g.waiting.map f }

/-- The OPEN ticket becomes CLOSED (R5, R6). -/
def Ingress.closeOpen (g : Ingress) : Ingress :=
  g.mapTickets fun t => { t with state := .closed }

/-- The OPEN ticket's lines accepted rises by 1 (R8). -/
def Ingress.countAccepted (g : Ingress) : Ingress :=
  g.mapTickets fun t => if t.state = .opened then { t with accepted := t.accepted + 1 } else t

/-- The lines accepted of the ticket of a frame number falls by 1 (R16). -/
def Ingress.uncountAccepted (frame : Word) (g : Ingress) : Ingress :=
  g.mapTickets fun t => if t.frame = frame then { t with accepted := t.accepted - 1 } else t

/-- A new OPEN ticket is appended as the newest waiting ticket (R5). -/
def Ingress.appendTicket (frame : Word) (g : Ingress) : Ingress :=
  { g with waiting := g.waiting ++ [⟨frame, .opened, 0⟩] }

/-! ### The LINE checks (R7 to R9) -/

/-- An entry (f, y) is after the queue tail (R7). -/
def Ingress.afterTail (g : Ingress) (f : Word) (y : Nat) : Bool :=
  match g.queue.getLast? with
  | none => true
  | some t => ahead f t.frame || (decide (f = t.frame) && decide (t.lineNo < y))

/-- What the checks of R8 decide for a LINE, in their order. -/
inductive LineVerdict where | disabled | badForm | notOpen | late | order | overrun | accepted
deriving DecidableEq, Repr

/-- The checks of R8 against the descriptor, the panel state, the line position and the Ingress state. -/
def lineVerdict (d : PanelDescriptor) (q : Sequencer) (g : Ingress) (f : Word) (y : Nat) (count : Nat) : LineVerdict :=
  if q.run = .disabled then .disabled
  else if count ≠ d.width ∨ d.activeLines ≤ y then .badForm
  else if g.openTicket.map (·.frame) ≠ some f then .notOpen
  else if g.scan.map (·.frame) = some f ∧ y ≤ q.linePos then .late
  else if g.afterTail f y = false then .order
  else if g.queue.length = d.quota then .overrun
  else .accepted

/-- The line takes a free slot, is appended at the tail, and the OPEN ticket's lines accepted rises by 1 (R8). -/
def acceptLine (p : Panel) (f : Word) (y : Nat) (pxs : List Pixel) (s : State) : State :=
  modIngress p (fun g =>
    { g.countAccepted with queue := g.queue ++ [⟨f, y, pxs⟩] }) (takeSlot s)

/-! ### Resolution (R10 to R13) -/

/-- The queue head precedes (F, y): its frame number is behind F, or is F with a smaller line number (R10). -/
def precedes (scanFrame : Word) (y : Nat) (e : LineSlot) : Bool :=
  behind e.frame scanFrame || (decide (e.frame = scanFrame) && decide (e.lineNo < y))

/-- The queue after step 1 of the resolution: entries before (F, y) are dropped; none are where the scan frame
is none (R10). -/
def Ingress.skipStale (g : Ingress) (y : Nat) : List LineSlot :=
  match g.scan with
  | none => g.queue
  | some t => g.queue.dropWhile (precedes t.frame y)

/-- The host line step 2 takes, if any (R10). -/
def Ingress.lineDue (g : Ingress) (y : Nat) : Option LineSlot :=
  match g.scan, g.skipStale y with
  | some t, e :: _ => if e.frame = t.frame ∧ e.lineNo = y then some e else none
  | _, _ => none

/-- How many held slots a taken line replaces as the line being driven: none, since none is driven between drive
slots (R12); a slot it did replace would return to the free list (R1). -/
def Ingress.drivenSlots (g : Ingress) : Nat := if g.driving.isSome then 1 else 0

/-- Resolution of line y: stale entries return to the free list, then the line due is taken or is missing (R10).
In LIVE a taken slot becomes the line being driven; in SAFE it returns to the free list at once (R12). -/
def resolve (p : Panel) (y : Nat) (s : State) : State :=
  let g := s.ingress p
  let rest := g.skipStale y
  let stale := g.queue.length - rest.length
  match g.lineDue y with
  | some e =>
    if (s.sup p).mode = .live then
      freeSlot (stale + g.drivenSlots)
        (modIngress p (fun g => { g with queue := rest.drop 1, driving := some e }) s)
    else
      freeSlot (stale + 1) (modIngress p (fun g => { g with queue := rest.drop 1 }) s)
  | none => freeSlot stale (modIngress p (fun g => { g with queue := rest, missing := g.missing + 1 }) s)

/-- A line of the fill colour (R11). -/
def fillLine (d : PanelDescriptor) : List Pixel := List.replicate d.width d.fill

/-- The substitute of a missing line, by the active missing policy (R11). -/
def substitute (d : PanelDescriptor) (g : Ingress) : List Pixel :=
  match d.policy with
  | .fill => fillLine d
  | .repeatPrev =>
    match g.lastHost with
    | some e => e.pixels
    | none => fillLine d

/-- The end of a taken line's drive slot: it becomes the last host line, and the one before it returns to the
free list (R12). The drive slot of a missing line changes no held slot. -/
def endDriving (p : Panel) (s : State) : State :=
  match (s.ingress p).driving with
  | none => s
  | some e =>
    freeSlot (if (s.ingress p).lastHost.isSome then 1 else 0)
      (modIngress p (fun g => { g with driving := none, lastHost := some e }) s)

/-- The last host line returns to the free list, at the entry into SAFE (R12). -/
def freeLastHost (p : Panel) (s : State) : State :=
  freeSlot (if (s.ingress p).lastHost.isSome then 1 else 0) (modIngress p (fun g => { g with lastHost := none }) s)

/-- The held slots return to the free list (R15, R17, R18). -/
def freeHeld (p : Panel) (s : State) : State :=
  freeSlot (s.ingress p).held (modIngress p (fun g => { g with driving := none, lastHost := none }) s)

/-! ### Frame start, commit, restart and stop (R14 to R17) -/

/-- The next scan ticket is taken: the old one is dropped and the oldest waiting ticket, if any, replaces it (R14). -/
def Ingress.takeTicket (g : Ingress) : Ingress :=
  match g.waiting with
  | [] => { g with scan := none }
  | t :: ts => { g with scan := some t, waiting := ts, lastScan := some t.frame }

/-- The queue entry belongs to the scan ticket or a waiting ticket (R14). -/
def Ingress.keeps (g : Ingress) (e : LineSlot) : Bool := g.tickets.any fun t => decide (t.frame = e.frame)

/-- The Ingress Unit's steps of a frame start: ticket, purge, missing count 0 (R14). -/
def ingressFrameStart (p : Panel) (s : State) : State :=
  let g := (s.ingress p).takeTicket
  let kept := g.queue.filter g.keeps
  freeSlot (g.queue.length - kept.length) (modIngress p (fun _ => { g with queue := kept, missing := 0 }) s)

/-- The geometry purge: tickets, queue, held slots and last scan frame (R15). -/
def geometryPurge (p : Panel) (s : State) : State :=
  freeSlot ((s.ingress p).queue.length + (s.ingress p).held)
    (modIngress p (fun g =>
      { g with scan := none, waiting := [], lastScan := none, queue := [], driving := none, lastHost := none }) s)

/-- One entry is removed from the tail: its slot is freed, its ticket's lines accepted falls by 1, OVERRUN (R16). -/
def dropTail (p : Panel) (s : State) : State :=
  match (s.ingress p).queue.getLast? with
  | none => s
  | some e =>
    occurs .overrun p
      (freeSlot 1 (modIngress p (fun g =>
        { g.uncountAccepted e.frame with queue := g.queue.dropLast }) s))

/-- `n` entries are removed from the tail, one after another (R16). -/
def dropTails (p : Panel) : Nat → State → State
  | 0, s => s
  | n + 1, s => dropTails p n (dropTail p s)

/-- The queue is shortened from its tail to the quota (R16). -/
def reduceQuota (p : Panel) (quota : Nat) (s : State) : State :=
  dropTails p ((s.ingress p).queue.length - quota) s

/-- RESTART_PANEL and STOP_PANEL return the Ingress state to empty (R17). -/
def emptyIngress (p : Panel) (s : State) : State :=
  freeSlot ((s.ingress p).queue.length + (s.ingress p).held) (modIngress p (fun _ => Ingress.reset) s)

end Sys2Proof.Machine
end

