-- ==== Sys2Proof/Machine/Compose.lean ====
section
/-! DEFINITION. The Composer: building the driven line, capture and image exchange, region checks, and what a commit
does to the images (spec/03). -/

namespace Sys2Proof.Machine

/-! ### Images in the Retained Store (R49, R52) -/

/-- The first block of a region's front image (R49, R53). -/
def frontBlock (r : Region) (side : FrontSide) : Nat :=
  match side with
  | .first => r.firstBlock
  | .second => r.firstBlock + r.imageBlocks

/-- The first block of a region's back image. -/
def backBlock (r : Region) (side : FrontSide) : Nat :=
  match side with
  | .first => r.firstBlock + r.imageBlocks
  | .second => r.firstBlock

/-- The store address of region pixel (x, y), given relative to the region, in the image at a block (R52). -/
def imageAddr (r : Region) (block x y : Nat) : Nat :=
  pixelAddr (block + (y / 64) * ceilDiv64 r.width + x / 64) (y % 64) (x % 64)

/-! ### The driven line (R54, R55) -/

/-- The base line of a drive slot (R54). -/
def baseLine (d : PanelDescriptor) (mode : ContentMode) (g : Ingress) : List Pixel :=
  match mode with
  | .safe => fillLine d
  | .live =>
    match g.driving with
    | some e => e.pixels
    | none => substitute d g

/-- What the deciding region shows at a pixel of its rectangle (R55). -/
def regionPixel (m : Memory) (d : PanelDescriptor) (mode : ContentMode) (r : Region) (st : RegionState)
    (x y : Nat) (base : Pixel) : Pixel :=
  let image := match st.front with
    | .empty => d.fill
    | .valid => m.readPixel (imageAddr r (frontBlock r st.side) (x - r.x0) (y - r.y0))
  match r.mode, mode with
  | .window, .live => base
  | .window, .safe => d.fill
  | .mirror, .live => base
  | .mirror, .safe => image
  | .staged, _ => image
  | .fixed, _ => image

/-- The regions of a panel with their states, in index order. -/
def regionList (t : Tables) (c : Composer) : List (Region × RegionState) := t.regions.toList.zip c.regions.toList

/-- The pixel driven at (x, y): the lowest-index valid region that contains it decides (R55). -/
def drivenPixel (m : Memory) (d : PanelDescriptor) (mode : ContentMode) (rs : List (Region × RegionState))
    (x y : Nat) (base : Pixel) : Pixel :=
  match rs.find? fun e => e.1.valid && e.1.contains x y with
  | some e => regionPixel m d mode e.1 e.2 x y base
  | none => base

/-- The driven line of drive slot y (R54, R55). -/
def State.buildLine (s : State) (p : Panel) (y : Nat) : List Pixel :=
  let d := s.pd p
  let mode := (s.sup p).mode
  let base := baseLine d mode (s.ingress p)
  let rs := (regionList (s.tables p) (s.composer p)).filter fun e => e.1.valid && e.1.hasRow y
  (List.range d.width).map fun x => drivenPixel s.store d mode rs x y (base.getD x d.fill)

/-- At the start of a drive slot the Composer builds the line and the port drives it (R28). -/
def driveLine (p : Panel) (y : Nat) (s : State) : State :=
  modComposer p (fun c => { c with driven := some (s.buildLine p y) }) s

/-- The port drives no line. -/
def quietPort (p : Panel) (s : State) : State := modComposer p (fun c => { c with driven := none }) s

/-! ### Capture (R56) -/

/-- Write a row of pixels from column `x` on. -/
def writeRow (r : Region) (block y : Nat) : Nat → List Pixel → Memory → Memory
  | _, [], m => m
  | x, px :: pxs, m => writeRow r block y (x + 1) pxs (m.writePixel (imageAddr r block x y) px)

/-- A region captures row y of the frame: it is valid, its capture is ON and its rectangle has the row (R56). -/
def Region.captures (r : Region) (y : Nat) : Bool := r.valid && r.capture && r.hasRow y

/-- Columns x0 to x1 of a line. -/
def Region.slice (r : Region) (pxs : List Pixel) : List Pixel := (pxs.drop r.x0).take r.width

/-- The store after row y of a host line has been captured by the regions of a list (R56). -/
def captureStore (y : Nat) (pxs : List Pixel) : List (Region × RegionState) → Memory → Memory
  | [], m => m
  | (r, st) :: rs, m =>
    captureStore y pxs rs
      (if r.captures y then writeRow r (backBlock r st.side) (y - r.y0) 0 (r.slice pxs) m else m)

/-- A row is added to a row mask. -/
def addRow (row : Nat) (mask : List Nat) : List Nat := if row ∈ mask then mask else mask ++ [row]

/-- Change each region state by its table entry. -/
def mapRegions (p : Panel) (f : Region → RegionState → RegionState) (s : State) : State :=
  modComposer p (fun c => { c with regions := Vector.zipWith f (s.tables p).regions c.regions }) s

/-- Capture at the end of line y's drive slot in LIVE, where the line driven was a host line (R56). -/
def captureRow (p : Panel) (y : Nat) (s : State) : State :=
  match (s.sup p).mode, (s.ingress p).driving with
  | .live, some e =>
    mapRegions p (fun r st => if r.captures y then { st with mask := addRow (y - r.y0) st.mask } else st)
      (modStore (captureStore y e.pixels (regionList (s.tables p) (s.composer p))) s)
  | _, _ => s

/-! ### Region checks (R59, R60) -/

/-- A check accumulator with a row's driven pixels folded in (R59, R60). -/
def CheckAcc.fold (a : CheckAcc) (pxs : List Pixel) (substituted : Bool) : CheckAcc :=
  ⟨crcFold a.crc (pixelsBytes pxs), if substituted then a.substituted + 1 else a.substituted⟩

/-- The row's line was not a host line driven in LIVE (R60). -/
def State.rowSubstituted (s : State) (p : Panel) : Bool :=
  match (s.sup p).mode with
  | .safe => true
  | .live => (s.ingress p).driving.isNone

/-- The checks at the end of line y's drive slot (R59, R60). -/
def foldChecks (p : Panel) (y : Nat) (s : State) : State :=
  let pxs := (s.composer p).driven.getD []
  let sub := s.rowSubstituted p
  mapRegions p (fun r st =>
    if r.hasRow y then { st with acc := st.acc.map fun a => a.fold (r.slice pxs) sub } else st) s

/-- The accumulators of a new frame: each valid region with check ON begins one (R59). -/
def beginChecks (p : Panel) (s : State) : State :=
  mapRegions p (fun r st => { st with acc := if r.valid && r.check then some ⟨crcInit, 0⟩ else none }) s

/-! ### Frame end (R57, R61) -/

/-- The row mask holds every row of the rectangle. -/
def Region.complete (r : Region) (mask : List Nat) : Bool := (List.range r.height).all fun i => decide (i ∈ mask)

def FrontSide.flip : FrontSide → FrontSide | .first => .second | .second => .first

/-- What frame end does to a region state (R57). -/
def RegionState.exchange (r : Region) (st : RegionState) : RegionState :=
  if r.valid && r.capture then
    if st.mask = [] then st
    else if r.complete st.mask then { st with front := .valid, side := st.side.flip, mask := [] }
    else { st with mask := [] }
  else st

/-- The capture of a region was incomplete: some but not all rows (R57). -/
def incompleteCapture (r : Region) (st : RegionState) : Bool :=
  r.valid && r.capture && decide (st.mask ≠ []) && !r.complete st.mask

/-- The indices of the regions with an incomplete capture, ascending (R57). -/
def State.incompleteRegions (s : State) (p : Panel) : List Nat :=
  ((regionList (s.tables p) (s.composer p)).zipIdx.filter fun e => incompleteCapture e.1.1 e.1.2).map (·.2)

/-- CAPTURE_INCOMPLETE for each region of a list (R57). -/
def reportIncomplete (p : Panel) : List Nat → State → State
  | [], s => s
  | i :: is, s => reportIncomplete p is (occur (.panel .captureIncomplete p) (natWord i) s)

/-- The entries of the CHECK parcel: one for each valid region with check ON, ascending (R61). -/
def State.checkEntries (s : State) (p : Panel) : List CheckEntry :=
  (regionList (s.tables p) (s.composer p)).zipIdx.filterMap fun e =>
    if e.1.1.valid && e.1.1.check then
      e.1.2.acc.map fun a => ⟨e.2, crcFinal a.crc, a.substituted⟩
    else none

/-- The CHECK parcel of the frame that ends (R61). -/
def State.checkParcel (s : State) (p : Panel) : CheckParcel :=
  { panel := p, scanFrame := s.scanFrame p, mode := (s.sup p).mode, skipped := 0, entries := s.checkEntries p }

/-- The CHECK parcel is built and offered where at least one region is checked (R61, R62). -/
def offerChecks (p : Panel) (s : State) : State :=
  if s.checkEntries p = [] then s else offerCheck (s.checkParcel p) s

/-- The Composer's work at frame end: images exchange, CAPTURE_INCOMPLETE, then the CHECK parcel (R57, R61). The accumulators stay
as they are until the next frame start (DEDUCED, log 21). -/
def composerFrameEnd (p : Panel) (s : State) : State :=
  offerChecks p (reportIncomplete p (s.incompleteRegions p) (mapRegions p RegionState.exchange s))

/-- A region state without its row mask and check accumulator (R58). -/
def RegionState.clearWork (st : RegionState) : RegionState := { st with mask := [], acc := none }

/-- Row masks emptied and check accumulators discarded (R58). -/
def clearFrameWork (p : Panel) (s : State) : State :=
  modComposer p (fun c => { c with regions := c.regions.map RegionState.clearWork }) s

/-! ### The marker line's CAPTURE parcel (R43) -/

def State.captureParcel (s : State) (p : Panel) : CaptureParcel :=
  { panel := p, scanFrame := s.scanFrame p, lineNo := (s.seq p).linePos, mode := (s.sup p).mode,
    width := (s.pd p).width, pixels := (s.composer p).driven.getD [] }

/-! ### Commit application (R63, R64) -/

/-- The region keeps its rectangle (R63). -/
def sameRect (a b : Region) : Bool := decide (a.x0 = b.x0 ∧ a.y0 = b.y0 ∧ a.x1 = b.x1 ∧ a.y1 = b.y1)

/-- A region loses its images when its entry `old` is replaced by `new` (R63). -/
def losesImages (old new : Region) : Bool :=
  (old.valid && !new.valid) ||
  (new.valid && (!sameRect old new || decide (old.firstBlock ≠ new.firstBlock) || decide (new.mode = .window))) ||
  (!old.valid && new.valid)

/-- A mirror or staged region becomes fixed at the same rectangle and first block (R64). -/
def becomesFixed (old new : Region) : Bool :=
  old.valid && new.valid && old.capture && decide (new.mode = .fixed) && sameRect old new &&
    decide (old.firstBlock = new.firstBlock)

/-- What a commit does to a region state (R63, R64). -/
def RegionState.commit (old new : Region) (st : RegionState) : RegionState :=
  if losesImages old new then { st with front := .empty, side := .first, mask := [] }
  else if becomesFixed old new then { st with side := .first }
  else st

/-- The front image of a region that becomes fixed is copied into its first blocks (R64). -/
def fixedCopy (old new : Region) (st : RegionState) (m : Memory) : Memory :=
  if becomesFixed old new && decide (st.side = .second) then
    m.copy (frontBlock new .second * blockBytes) (frontBlock new .first * blockBytes) (new.imageBlocks * blockBytes)
  else m

/-- The copies of R64 over all the entries of a table. -/
def fixedCopies : List ((Region × Region) × RegionState) → Memory → Memory
  | [], m => m
  | ((old, new), st) :: rest, m => fixedCopies rest (fixedCopy old new st m)

/-- The region states after a commit's application (R63, R64). -/
def commitRegions (old new : Tables) (c : Composer) : Vector RegionState 16 :=
  Vector.zipWith (fun (e : Region × Region) st => RegionState.commit e.1 e.2 st)
    (Vector.zip old.regions new.regions) c.regions

/-- The Composer's part of a commit's application: from the tables it replaces to the ones it makes active
(R63, R64). -/
def composerCommit (p : Panel) (old new : Tables) (s : State) : State :=
  let pairs := (old.regions.toList.zip new.regions.toList).zip (s.composer p).regions.toList
  modComposer p (fun c => { c with regions := commitRegions old new c }) (modStore (fixedCopies pairs) s)

end Sys2Proof.Machine
end

