-- ==== Sys2Proof/Machine/Supervise.lean ====
section
/-! DEFINITION. The Supervision Unit: frame judgement, stale count and content mode (spec/04). -/

namespace Sys2Proof.Machine

/-- The stale count after a judgement (R73). -/
def staleAfter (bad : Bool) (stale : Nat) : Nat := if bad then min 15 (stale + 1) else 0

/-- The next content mode, from the current mode, the judgement and the updated stale count (R74). -/
def decideMode (mode : ContentMode) (bad : Bool) (stale limit : Nat) : ContentMode :=
  match mode with
  | .live => if bad = true ∧ limit ≠ 0 ∧ limit ≤ stale then .safe else .live
  | .safe => if bad then .safe else .live

/-- A judgement updates the stale count and decides the next content mode (R73, R74). -/
def Supervision.judge (bad : Bool) (limit : Nat) (u : Supervision) : Supervision :=
  { u with stale := staleAfter bad u.stale, next := decideMode u.mode bad (staleAfter bad u.stale) limit }

/-- A frame is judged (R71, R72). -/
def judge (p : Panel) (bad : Bool) (s : State) : State :=
  modSup p (fun u => u.judge bad (s.pd p).staleLimit) s

/-- The frame that reaches its frame end is bad: no scan frame, or more missing lines than the tolerance (R71). -/
def State.frameBad (s : State) (p : Panel) : Bool :=
  (s.scanFrame p).isNone || decide ((s.pd p).tolerance < (s.ingress p).missing)

/-- Step 2 of a frame start: the decided content mode takes effect. An entry into SAFE frees the last host line
and raises SAFE_ENTERED; an exit raises SAFE_LEFT (R12, R75). -/
def modeTakesEffect (p : Panel) (s : State) : State :=
  let s' := modSup p (fun u => { u with mode := u.next }) s
  match (s.sup p).mode, (s.sup p).next with
  | .live, .safe => occurs .safeEntered p (freeLastHost p s')
  | .safe, .live => occurs .safeLeft p s'
  | .live, .live => s'
  | .safe, .safe => s'

end Sys2Proof.Machine
end

