-- ==== Sys2Proof/Machine/Scan.lean ====
section
/-! DEFINITION. The Touch Processor: scan cycles, deliveries, cycle completions, hops, and what commits, restarts and
stops do to it (spec/06). -/

namespace Sys2Proof.Machine

/-! ### Cells (R108) -/

def Touch.cell (t : Touch) (col row : Nat) : Cell := Sparse.get Cell.reset t.cells (cellKey col row)

def Touch.setCell (t : Touch) (col row : Nat) (c : Cell) : Touch :=
  { t with cells := Sparse.set Cell.reset t.cells (cellKey col row) c }

/-- Change the records of a list of cells, one after another. -/
def Touch.updateCells (f : Cell → Cell) : List (Nat × Nat) → Touch → Touch
  | [], t => t
  | (col, row) :: cs, t => Touch.updateCells f cs (t.setCell col row (f (t.cell col row)))

def Cell.noContact (c : Cell) : Cell := { c with contact := false }

/-- Every cell's contact becomes no (R116, R124, R125). -/
def Touch.clearContacts (t : Touch) : Touch := { t with cells := Sparse.map Cell.reset Cell.noContact t.cells }

/-- A delivered raw count replaces each cell's raw count (R109). -/
def Touch.storeRaws : List (Nat × Nat) → List Word → Touch → Touch
  | (col, row) :: cs, w :: ws, t =>
    Touch.storeRaws cs ws (t.setCell col row { t.cell col row with raw := w })
  | _, _, t => t

/-! ### Cycle start (R110, R122) -/

/-- The hop index after an advance (R122). -/
def nextHop (length hop : Nat) : Nat := if hop + 1 < length then hop + 1 else 0

/-- A pending hop is made (R122). -/
def makeHop (p : Panel) (s : State) : State :=
  if (s.touch p).hopPending then
    let h := nextHop (s.tables p).hopLength (s.touch p).hop
    occur (.panel .hop p) (natWord h)
      (modTouch p (fun t => { t with hop := h, reseed := true, hopPending := false }) s)
  else s

/-- A scan cycle starts at the beginning of a burst of group 0 (R110). -/
def startCycle (p : Panel) (s : State) : State :=
  makeHop p (modTouch p (fun t => { t with cycleOpen := true, noiseMax := 0, spanned := 1 }) s)

/-- A frame start of the panel counts toward an open cycle (R110). -/
def spanFrame (p : Panel) (s : State) : State :=
  modTouch p (fun t => if t.cycleOpen then { t with spanned := min 255 (t.spanned + 1) } else t) s

/-! ### Ordinary completion (R112 to R115) -/

/-- raw count − baseline (R112). -/
def Cell.delta (c : Cell) : Int := (c.raw.toNat : Int) - (c.baseline.toNat : Int)

/-- The contact decision by hysteresis (R112). -/
def Cell.decideContact (d : PanelDescriptor) (c : Cell) : Cell :=
  { c with contact := if c.contact then decide ((d.releaseThreshold : Int) ≤ c.delta)
                      else decide ((d.touchThreshold : Int) ≤ c.delta) }

/-- The cycle is NOISY (R112). -/
def Touch.isNoisy (t : Touch) (d : PanelDescriptor) : Bool := decide (d.noiseThreshold < t.noiseMax.toNat)

/-- A baseline moves toward the raw count by at most the drift step (R113). -/
def drift (step : Nat) (raw baseline : Word) : Word :=
  if baseline.toNat ≤ raw.toNat then baseline + natWord (min step (raw.toNat - baseline.toNat))
  else baseline - natWord (min step (baseline.toNat - raw.toNat))

/-- The baseline of a cell not in contact drifts (R113). -/
def Cell.driftBaseline (step : Nat) (c : Cell) : Cell :=
  if c.contact then c else { c with baseline := drift step c.raw c.baseline }

/-- The centre pixel of a cell (R114). -/
def centre (d : PanelDescriptor) (col row : Nat) : Nat × Nat :=
  (col * d.pitchX + d.pitchX / 2, row * d.pitchY + d.pitchY / 2)

/-- A cell's centre lies in a valid MASK region (R114). -/
def Tables.masked (t : Tables) (col row : Nat) : Bool :=
  t.regions.toList.any fun r => r.valid && r.mask && r.contains (centre t.pd col row).1 (centre t.pd col row).2

/-- `a` stands before `b` in the contact list: greater delta, then smaller row, then smaller column (R114). -/
def Contact.before (a b : Contact) : Bool :=
  decide (b.delta < a.delta) ||
    (decide (a.delta = b.delta) && (decide (a.row < b.row) || (decide (a.row = b.row) && decide (a.col ≤ b.col))))

def insertContact (c : Contact) : List Contact → List Contact
  | [] => [c]
  | x :: xs => if c.before x then c :: x :: xs else x :: insertContact c xs

def sortContacts : List Contact → List Contact
  | [] => []
  | x :: xs => insertContact x (sortContacts xs)

/-- A measured cell as a candidate: in contact after the decision and not masked (R114). Baselines of cells in
contact do not drift, so the delta is the one of the decision. -/
def Touch.candidate (t : Touch) (tb : Tables) (cell : Nat × Nat) : Option Contact :=
  let c := t.cell cell.1 cell.2
  if c.contact && !tb.masked cell.1 cell.2 then some ⟨cell.1, cell.2, c.delta⟩ else none

/-- The candidates that remain, in list order (R114). -/
def Touch.candidates (t : Touch) (tb : Tables) : List Contact :=
  sortContacts (tb.measured.filterMap (t.candidate tb))

/-- A delta as the report carries it (R118). -/
def clampDelta (x : Int) : Int := max (-32768) (min 32767 x)

/-- The TOUCH report of a completed cycle with its contact candidates (R114, R118). -/
def touchReport (p : Panel) (t : Touch) (d : PanelDescriptor) (cands : List Contact) : TouchParcel :=
  { panel := p, cycle := t.cycle, hop := t.hop, spanned := t.spanned, noisy := t.isNoisy d,
    truncated := decide (d.maxContacts < cands.length), coalesced := false,
    contacts := (cands.take d.maxContacts).map fun c => { c with delta := clampDelta c.delta } }

/-- A report is offered; when the queue takes it, last report had contacts follows it (R115, R119). -/
def offerReport (r : TouchParcel) (s : State) : State :=
  if s.linkUp then
    modTouch r.panel (fun t => { t with lastHad := decide (r.contacts ≠ []) }) (offerTouch r s)
  else s

/-! ### The noise count (R120, R121) -/

/-- The noisy counter reaches the hop trigger (R121). -/
def hopTrigger (p : Panel) (s : State) : State :=
  if (s.pd p).hopTrigger ≤ (s.touch p).noisy then
    let s' := modTouch p (fun t => { t with noisy := 0 }) s
    if 2 ≤ (s.tables p).hopLength then modTouch p (fun t => { t with hopPending := true }) s'
    else occurs .noisePersist p s'
  else s

/-- A NOISY cycle raises the noisy counter, SCAN_NOISY occurs, and the hop trigger is tested (R120, R121). -/
def countNoisy (p : Panel) (s : State) : State :=
  hopTrigger p (occurs .scanNoisy p (modTouch p (fun t => { t with noisy := t.noisy + 1 }) s))

/-- A cycle that is not NOISY sets the noisy counter to 0 (R120). -/
def countClean (p : Panel) (s : State) : State := modTouch p (fun t => { t with noisy := 0 }) s

/-! ### Completion (R110 to R116) -/

/-- The contact decision and, unless the cycle is NOISY, the drift, over the measured cells (R112, R113). -/
def Touch.evaluate (t : Touch) (tb : Tables) : Touch :=
  let decided := Touch.updateCells (Cell.decideContact tb.pd) tb.measured t
  if t.isNoisy tb.pd then decided else Touch.updateCells (Cell.driftBaseline tb.pd.driftStep) tb.measured decided

def Cell.reseed (c : Cell) : Cell := { c with baseline := c.raw }

/-- The reseed of the baselines, the contacts and the flag (R116). -/
def Touch.doReseed (t : Touch) (tb : Tables) : Touch :=
  { (Touch.updateCells Cell.reseed tb.measured t).clearContacts with reseed := false }

/-- The report an ordinary completion makes, if any: the list is not empty, or the last report had contacts (R115). -/
def State.ordinaryReport (s : State) (p : Panel) : Option TouchParcel :=
  let t := s.touch p
  let r := touchReport p t (s.pd p) (t.candidates (s.tables p))
  if r.contacts ≠ [] ∨ t.lastHad = true then some r else none

/-- The lift report a reseed completion makes, if any (R116). -/
def State.liftReport (s : State) (p : Panel) : Option TouchParcel :=
  let t := s.touch p
  if t.lastHad then some (touchReport p t (s.pd p) []) else none

/-- The noise count and the report of a completion. The spec does not order a NOISY cycle's notices and its
report's offer (R159), so those two are taken in a free order (log 7). -/
def closeWorks (p : Panel) (report : Option TouchParcel) (s : State) : State :=
  let noisy := (s.touch p).isNoisy (s.pd p)
  inFreeOrder ((if noisy then [countNoisy p] else []) ++ (match report with | some r => [offerReport r] | none => []))
    (if noisy then s else countClean p s)

/-- The cycle closes: cycle open becomes no and the cycle number rises by 1 (R110). Frames spanned and the cycle noise maximum,
which R110 does not name here, are kept (DESIGN CHOICE, log 37). -/
def closeCycle (p : Panel) (s : State) : State :=
  modTouch p (fun t => { t with cycleOpen := false, cycle := t.cycle + 1 }) s

/-- A scan cycle completes, ordinary or as a reseed (R110 to R116). -/
def completeCycle (p : Panel) (s : State) : State :=
  if (s.touch p).reseed then
    let s1 := modTouch p (fun t => t.doReseed (s.tables p)) s
    closeCycle p (closeWorks p (s1.liftReport p) s1)
  else
    let s1 := modTouch p (fun t => t.evaluate (s.tables p)) s
    closeCycle p (closeWorks p (s1.ordinaryReport p) s1)

/-- A burst of group `g` delivers its raw counts and noise metric, and the cursor moves forward; from the last
group it moves to 0 and the cycle completes (R97, R109). -/
def deliver (p : Panel) (g : Nat) (raws : List Word) (noise : Word) (s : State) : State :=
  let groups := (s.tables p).groupList
  let cells := match groups[g]? with | some e => e.cells | none => []
  let last := decide (groups.length ≤ g + 1)
  let s1 := modTouch p (fun t =>
    { Touch.storeRaws cells raws t with
      noiseMax := if t.noiseMax.toNat < noise.toNat then noise else t.noiseMax
      cursor := if last then 0 else g + 1 }) s
  if last then completeCycle p s1 else s1

/-! ### Commit, restart and stop (R123 to R125) -/

/-- The matrix columns or rows differ (R124). -/
def matrixChanged (old new : Tables) : Bool :=
  decide (old.pd.columns ≠ new.pd.columns) || decide (old.pd.rows ≠ new.pd.rows)

/-- The groups or the matrix differ: entries beyond the first unused one do not count (R124). -/
def scanChanged (old new : Tables) : Bool :=
  decide (old.groupList ≠ new.groupList) || matrixChanged old new

/-- A commit that changes the groups or the matrix resets the cycle; a change of the matrix also resets every
record (R124). R124 names neither frames spanned nor the cycle noise maximum, which the model keeps (DESIGN CHOICE, log 37). -/
def Touch.commitScan (old new : Tables) (t : Touch) : Touch :=
  if scanChanged old new then
    { t.clearContacts with
      cells := if matrixChanged old new then [] else t.clearContacts.cells
      cursor := 0, cycleOpen := false, cycle := t.cycle + 1, reseed := true }
  else t

/-- A commit that changes any entry of the Hop Table (R123). -/
def Touch.commitHops (old new : Tables) (t : Touch) : Touch :=
  if old.hops ≠ new.hops then { t with hop := 0, hopPending := false, noisy := 0 } else t

/-- The Touch Processor's part of a commit's application (R123, R124). -/
def touchCommit (p : Panel) (old new : Tables) (s : State) : State :=
  modTouch p (fun t => (t.commitScan old new).commitHops old new) s

/-- RESTART_PANEL and STOP_PANEL abandon the partial cycle (R125). R125 does not name frames spanned, which the model keeps
(DESIGN CHOICE, log 37). -/
def Touch.restart (t : Touch) : Touch :=
  { t.clearContacts with cursor := 0, cycleOpen := false, noiseMax := 0, cycle := t.cycle + 1 }

end Sys2Proof.Machine
end

