-- ==== Sys2Proof/Machine/Sense.lean ====
section
/-! DEFINITION. The Sense Arbiter and the Sense Engine: requests, the grant rule, reservations, windows, releases and
aborts (spec/05). -/

namespace Sys2Proof.Machine

/-! ### Needs and channels (R85, R96) -/

/-- The next `k` groups counted from the cursor, the last followed by group 0 (R85). -/
def groupsFrom (groups : List Group) (cursor k : Nat) : List Group :=
  (List.range k).filterMap fun j => groups[(cursor + j) % groups.length]?

/-- The halves a request needs: two if any of its groups is wider than 16 cells (R85). -/
def needOf (groups : List Group) (cursor k : Nat) : Nat :=
  if (groupsFrom groups cursor k).any fun g => decide (16 < g.width) then 2 else 1

inductive HalfName where | a | b
deriving DecidableEq, Repr

/-- The half and the channel that receive cell `i` of a group: in a window of need 1 the granted half, in one of
need 2 half A for the first 16 cells and half B for the others (R96). -/
def channelOf (need : Nat) (granted : HalfName) (i : Nat) : HalfName × Nat :=
  if need = 2 then (if i < 16 then (.a, i) else (.b, i - 16)) else (granted, i)

def setPhase (p : Panel) (ph : SensePhase) (s : State) : State := modSeq p (fun q => { q with phase := ph }) s

/-! ### The phases of a window (R95, R96) -/

/-- A burst begins: a cycle starts with a burst of group 0, and the frequency is taken after any hop (R96, R110). -/
def beginBurst (p : Panel) (s : State) : State :=
  let g := (s.touch p).cursor
  let s1 := if g = 0 then startCycle p s else s
  let freq := ((s1.tables p).hops.toList.getD (s1.touch p).hop none).getD 0
  setPhase p .burst
    (modClaim p (fun c => { c with window := c.window.map fun w => { w with burst := some ⟨g, freq⟩ } }) s1)

/-- The window enters SETUP; a setup gap of 0 is passed through in the same event (R95). -/
def enterSetup (p : Panel) (s : State) : State :=
  if (s.pd p).setupGap = 0 then beginBurst p (setPhase p .setup s) else setPhase p .setup s

/-- The window enters SWITCH; a switch gap of 0 is passed through in the same event (R95). -/
def enterSwitch (p : Panel) (s : State) : State :=
  if (s.pd p).switchGap = 0 then enterSetup p (setPhase p .switch s) else setPhase p .switch s

/-! ### The grant rule (R88, R90, R91, R95) -/

/-- The reservation sets half A, or half B, aside for another panel than `p`. -/
def Arbiter.keptFromA (r : Arbiter) (p : Panel) : Bool :=
  match r.reservation with | some v => v.a && decide (v.panel ≠ p) | none => false
def Arbiter.keptFromB (r : Arbiter) (p : Panel) : Bool :=
  match r.reservation with | some v => v.b && decide (v.panel ≠ p) | none => false

/-- Panel p's request may take half A: it is free and not reserved for the other panel (R88, R91). -/
def Arbiter.mayTakeA (r : Arbiter) (p : Panel) : Bool := r.a.holder.isNone && !r.keptFromA p
def Arbiter.mayTakeB (r : Arbiter) (p : Panel) : Bool := r.b.holder.isNone && !r.keptFromB p

/-- The need of panel p's waiting request can be met (R88). -/
def State.canGrant (s : State) (p : Panel) : Bool :=
  match (s.claim p).request with
  | none => false
  | some r =>
    decide (r.need ≤ (if s.arb.mayTakeA p then 1 else 0) + (if s.arb.mayTakeB p then 1 else 0))

/-- Panel 1's request stands before panel 0's in the rule's order: a TIMELINE request before a FREE one, then the
higher sense priority; at equal priority panel 0 is first (R88). -/
def State.panel1First (s : State) : Bool :=
  match (s.claim .p0).request.map Request.cls, (s.claim .p1).request.map Request.cls with
  | some ReqClass.free, some ReqClass.timeline => true
  | some ReqClass.timeline, some ReqClass.free => false
  | _, _ => decide ((s.pd .p0).sensePriority < (s.pd .p1).sensePriority)

/-- The panel the grant rule grants, if any (R88). -/
def State.grantee (s : State) : Option Panel :=
  if s.canGrant .p0 then (if s.canGrant .p1 && s.panel1First then some .p1 else some .p0)
  else if s.canGrant .p1 then some .p1 else none

/-- The reservation ends, where it is held for panel p (R90). -/
def endReservation (p : Panel) (s : State) : State :=
  if s.reservedFor p then modArb (fun r => { r with reservation := none }) s else s

/-- Panel p becomes the holder of the halves a request takes (R88, R95). -/
def Arbiter.take (r : Arbiter) (p : Panel) (a b : Bool) : Arbiter :=
  { r with
    a := if a then { r.a with holder := some p } else r.a
    b := if b then { r.b with holder := some p } else r.b }

/-- A switch gap is due: the last user of a granted half is the other panel (R95). R103 says that the first window of each
panel after a reset pays none; where the other panel has used a granted half before that first window, the model follows R95
(DESIGN CHOICE, log 36). -/
def Arbiter.switchDue (r : Arbiter) (p : Panel) (a b : Bool) : Bool :=
  (a && decide (r.a.lastUser = some p.other)) || (b && decide (r.b.lastUser = some p.other))

/-- A grant: the request becomes the panel's window, its reservation ends, and the window enters SWITCH or SETUP
(R88, R90, R95). -/
def grant (p : Panel) (s : State) : State :=
  match (s.claim p).request with
  | none => s
  | some r =>
    let a := decide (r.need = 2) || s.arb.mayTakeA p
    let b := decide (r.need = 2) || !s.arb.mayTakeA p
    let due := s.arb.switchDue p a b
    let s1 := endReservation p (modArb (fun x => x.take p a b) s)
    let s2 := modClaim p (fun _ => ⟨none, some ⟨r.need, r.groups, none⟩⟩) s1
    if due then enterSwitch p s2 else enterSetup p s2

/-- One run of the grant rule: it grants, and runs again over the requests that remain (R88). -/
def runGrantRule (s : State) : State :=
  match s.grantee with
  | none => s
  | some p =>
    let s1 := grant p s
    match s1.grantee with
    | none => s1
    | some q => grant q s1

/-! ### Release, reservation, withdrawal, abort -/

/-- A half panel p holds is released, with last user p (R99). -/
def Half.release (p : Panel) (h : Half) : Half := if h.holder = some p then ⟨none, some p⟩ else h

/-- The panel's request is a waiting TIMELINE request for two halves (R90). -/
def State.waitsForTwo (s : State) (p : Panel) : Bool :=
  match (s.claim p).request with
  | some r => decide (r.cls = .timeline ∧ r.need = 2)
  | none => false

/-- The reservation of panel q with more halves set aside; without any half there is none (R90; log 11). -/
def extendReservation (old : Option Reservation) (q : Panel) (a b : Bool) : Option Reservation :=
  let a' := a || (match old with | some v => decide (v.panel = q) && v.a | none => false)
  let b' := b || (match old with | some v => decide (v.panel = q) && v.b | none => false)
  if a' || b' then some ⟨q, a', b'⟩ else old

/-- Panel p releases its halves: holder none, last user p, the window ends, and the halves are reserved for the
other panel's waiting two-half TIMELINE request (R90, R99, R101). The grant rule is run by the caller (R89). -/
def release (p : Panel) (s : State) : State :=
  let hadA := decide (s.arb.a.holder = some p)
  let hadB := decide (s.arb.b.holder = some p)
  let s1 := modArb (fun r =>
    { a := r.a.release p, b := r.b.release p
      reservation := if s.waitsForTwo p.other then extendReservation r.reservation p.other hadA hadB
                     else r.reservation }) s
  setPhase p .none (modClaim p (fun c => { c with window := none }) s1)

/-- A request that was not granted at its making sets aside every half that is free (R90). -/
def reserveFree (p : Panel) (s : State) : State :=
  if s.waitsForTwo p then
    modArb (fun r =>
      { r with reservation := extendReservation r.reservation p (r.mayTakeA p) (r.mayTakeB p) }) s
  else s

/-- A waiting request is withdrawn and any reservation held for it ends (R90, R92, R93, R100). -/
def withdraw (p : Panel) (s : State) : State :=
  setPhase p .none (endReservation p (modClaim p (fun c => { c with request := none }) s))

/-- An abort ends whatever the panel has with the arbiter, at once and without any gap; the other panel's window
is not touched, its waiting request meets the grant rule (R100, R101). -/
def abortSense (p : Panel) (s : State) : State :=
  match (s.claim p).window, (s.claim p).request with
  | some _, _ => runGrantRule (release p s)
  | none, some _ => runGrantRule (withdraw p s)
  | none, none => s

/-! ### Making a request (R86, R87) -/

/-- A TIMELINE request for a SENSE segment (R84, R86). -/
def State.timelineRequest (s : State) (p : Panel) (e : Segment) : Request :=
  { cls := .timeline, groups := e.groupCount.toNat
    need := needOf (s.tables p).groupList (s.touch p).cursor e.groupCount.toNat
    yield := some e.yield
    deadline := if e.yield = .wait ∧ (s.pd p).waitLimit ≠ 0 then some (s.pd p).waitLimit else none }

/-- A FREE request: one group, no yield, no deadline (R84, R87). -/
def State.freeRequest (s : State) (p : Panel) : Request :=
  { cls := .free, groups := 1, need := needOf (s.tables p).groupList (s.touch p).cursor 1, yield := none,
    deadline := none }

/-- A request is recorded. -/
def recordRequest (p : Panel) (r : Request) (s : State) : State :=
  modClaim p (fun c => { c with request := some r }) s

/-- The panel makes FREE requests in STRETCH: stretch sensing is ON and the Group Table holds a group (R87). -/
def State.sensesStretch (s : State) (p : Panel) : Bool :=
  (s.pd p).stretchSensing && decide ((s.tables p).groupList ≠ [])

/-- A TIMELINE request is made on entry to a SENSE segment, and the grant rule runs at once. The result says
whether the request was withdrawn at once, with SENSE_SKIPPED, so that the segment takes no time (R86, R90, R93). -/
def makeTimelineRequest (p : Panel) (e : Segment) (s : State) : State × Bool :=
  let r := s.timelineRequest p e
  let s1 := runGrantRule (setPhase p .request (recordRequest p r s))
  match (s1.claim p).request with
  | none => (s1, false)
  | some _ =>
    match r.deadline with
    | none => (occurs .senseSkipped p (withdraw p s1), true)
    | some _ => (reserveFree p s1, false)

/-- A FREE request is made and the grant rule runs (R87, R88). -/
def makeFreeRequest (p : Panel) (s : State) : State := runGrantRule (recordRequest p (s.freeRequest p) s)

/-- A waiting FREE request is withdrawn without SENSE_SKIPPED, and the grant rule runs (R38, R87). -/
def withdrawFree (p : Panel) (s : State) : State :=
  match (s.claim p).request with
  | some _ => runGrantRule (withdraw p s)
  | none => s

end Sys2Proof.Machine
end

