-- ==== Sys2Proof/Machine/Timeline.lean ====
section
/-! DEFINITION. The Timeline Sequencer: walking the timeline, frame start and frame end, stretches, PRESTART and MARK,
and the application of a commit (spec/02, spec/07). -/

namespace Sys2Proof.Machine

/-! ### Commit application (R145) -/

/-- A change of width or line period retunes the synthesizer without a change of lock state (R44). -/
def retune (p : Panel) (old new : PanelDescriptor) (s : State) : State :=
  if old.width ≠ new.width ∨ old.linePeriod ≠ new.linePeriod then
    modSeq p (fun q => { q with synthWidth := new.width, synthPeriod := new.linePeriod }) s
  else s

/-- A change of width or active lines purges the Ingress state (R15). -/
def purgeOnGeometry (p : Panel) (old new : PanelDescriptor) (s : State) : State :=
  if old.width ≠ new.width ∨ old.activeLines ≠ new.activeLines then geometryPurge p s else s

/-- The application of a commit: the active tables take the staged ones, and each block compares old and new
and acts on its own state; the purge comes before the quota reduction (R145). -/
def applyCommit (p : Panel) (s : State) : State :=
  let old := (s.mgmt p).active
  let new := (s.mgmt p).staged
  let s1 := modMgmt p (fun m => { m with active := m.staged, commitPending := false, committed := true }) s
  let s2 := reduceQuota p new.pd.quota (purgeOnGeometry p old.pd new.pd s1)
  touchCommit p old new (composerCommit p old new (retune p old.pd new.pd s2))

/-- A pending commit is applied, and COMMIT_DONE occurs (R138, R139, R144). -/
def applyPending (p : Panel) (s : State) : State :=
  if (s.mgmt p).commitPending then occurs .commitDone p (applyCommit p s) else s

/-! ### Drive slots (R28) -/

/-- The start of the drive slot of the next line: the line position becomes its number, the Ingress Unit resolves
it and the Composer builds the driven line (R28). -/
def beginSlot (p : Panel) (s : State) : State :=
  let y := (s.seq p).linesDriven
  driveLine p y (resolve p y (modSeq p (fun q => { q with linePos := y }) s))

/-! ### Segments (R27 to R30) -/

/-- A segment begins. The result says whether it ended at once: a SENSE segment whose request is withdrawn at its
making takes no time (R27, R30). -/
def beginSegment (p : Panel) (i : Nat) (e : Segment) (s : State) : State × Bool :=
  let s1 := modSeq p (fun q => { q with segment := some i }) s
  match e.kind with
  | .drive => (beginSlot p (modSeq p (fun q => { q with progress := 0 }) s1), false)
  | .blank => (quietPort p (modSeq p (fun q => { q with progress := 0 }) s1), false)
  | .sense => makeTimelineRequest p e (quietPort p s1)
  | .stop => (s1, true)

/-- Segments begin one after another, each as the one before it ends, until one lasts. The result says whether
the end of the timeline was reached (R27, R29). -/
def walk (p : Panel) : List (Segment × Nat) → State → State × Bool
  | [], s => (s, true)
  | (e, i) :: rest, s =>
    match beginSegment p i e s with
    | (s1, true) => walk p rest s1
    | (s1, false) => (s1, false)

/-- The segments from index `i` on, with their indices. -/
def Tables.segmentsFrom (t : Tables) (i : Nat) : List (Segment × Nat) := t.segments.zipIdx.drop i

/-- The segment the panel is walking. -/
def State.currentSegment (s : State) (p : Panel) : Option Segment :=
  match (s.seq p).segment with
  | none => none
  | some i => (s.tables p).segments[i]?

/-! ### PRESTART (R41) -/

/-- PRESTART is due: it has not occurred in the frame, and lines left is at most a nonzero lead (R41). -/
def State.prestartDue (s : State) (p : Panel) : Bool :=
  !(s.seq p).prestartDone && decide ((s.pd p).prestartLead ≠ 0 ∧ (s.seq p).linesLeft ≤ (s.pd p).prestartLead)

/-- PRESTART occurs (R41). -/
def raisePrestart (p : Panel) (s : State) : State :=
  occurs .prestart p (modSeq p (fun q => { q with prestartDone := true }) s)

def examinePrestart (p : Panel) (s : State) : State := if s.prestartDue p then raisePrestart p s else s

/-! ### Frame start (R35) -/

/-- Step 5's values of a frame start (R35). The stretch count is kept. -/
def Sequencer.frameStart (nominal : Nat) (q : Sequencer) : Sequencer :=
  { q with run := .running, segment := none, linesDriven := 0, linePos := 0, frameEnd := false,
           linesLeft := nominal, prestartDone := false, markDone := false, outcome := .none, deferred := false }

/-- Frame start: the pending commit, the content mode, ticket and purge, the sequencer's values with the new
check accumulators and the frame count of the scan cycle, then segment 0, then PRESTART (R35, R41). -/
def frameStart (p : Panel) (s : State) : State :=
  let s1 := ingressFrameStart p (modeTakesEffect p (applyPending p s))
  let s2 := modSeq p (Sequencer.frameStart (s1.tables p).nominalLength) s1
  let s3 := spanFrame p (beginChecks p s2)
  examinePrestart p (walk p ((s3.tables p).segmentsFrom 0) s3).1

/-! ### Stretch (R36 to R39) -/

/-- The panel enters STRETCH and, with stretch sensing ON, places a FREE request (R36, R38). -/
def enterStretch (p : Panel) (s : State) : State :=
  let s1 := quietPort p (modSeq p (fun q =>
    { q with run := .stretch, segment := none, stretchCount := 0, outcome := .none, deferred := false }) s)
  if s1.sensesStretch p then makeFreeRequest p s1 else s1

/-- The end of the timeline: frame start, or STRETCH under ADAPTIVE with no ticket waiting and a nonzero stretch
limit (R32). -/
def timelineEnd (p : Panel) (s : State) : State :=
  if (s.pd p).refresh = .adaptive ∧ (s.ingress p).waiting = [] ∧ (s.pd p).stretchLimit ≠ 0 then enterStretch p s
  else frameStart p s

/-- The current segment ends: the next one begins, or the end of the timeline is reached (R27, R29). -/
def endSegment (p : Panel) (s : State) : State :=
  let r := walk p ((s.tables p).segmentsFrom ((s.seq p).segment.getD 0 + 1)) s
  if r.2 then timelineEnd p r.1 else r.1

/-- The segment after the current one is SENSE, so a new request follows a release in the same event (R89). -/
def State.senseFollows (s : State) (p : Panel) : Bool :=
  match (s.seq p).segment with
  | none => false
  | some i =>
    match (s.tables p).segments[i + 1]? with
    | some e => decide (e.kind = .sense)
    | none => false

/-- A ticket is reported to a panel in STRETCH whose outcome is none: the outcome becomes TICKET, and a waiting
FREE request is withdrawn (R37). -/
def reportAppend (p : Panel) (s : State) : State :=
  if (s.seq p).run = .stretch ∧ (s.seq p).outcome = .none then
    withdrawFree p (modSeq p (fun q => { q with outcome := .ticket }) s)
  else s

/-- Frame start at a stretch line boundary, or deferred to the end of the hold gap of the FREE window that holds
halves at that boundary (R37, R39). -/
def startOrDefer (p : Panel) (s : State) : State :=
  if (s.claim p).window.isSome then modSeq p (fun q => { q with deferred := true }) s else frameStart p s

/-- The stretch expires: outcome EXPIRED, STRETCH_EXPIRED, a waiting FREE request is withdrawn (R39). -/
def expireStretch (p : Panel) (s : State) : State :=
  withdrawFree p (occurs .stretchExpired p (modSeq p (fun q => { q with outcome := .expired }) s))

/-- The stretch count after a boundary, saturating (R36). -/
def nextStretchCount (n : Nat) : Nat := min 4095 (n + 1)

/-- A stretch line boundary: the stretch count rises, the stretch may expire, and the frame start follows where
the outcome is not none (R36, R37, R39). -/
def stretchBoundary (p : Panel) (s : State) : State :=
  let s1 := modSeq p (fun q => { q with stretchCount := nextStretchCount q.stretchCount }) s
  match (s1.seq p).outcome with
  | .ticket => startOrDefer p s1
  | .expired => startOrDefer p s1
  | .none => if (s1.pd p).stretchLimit ≤ (s1.seq p).stretchCount then startOrDefer p (expireStretch p s1) else s1

/-- The next boundary of the stretch is the one at which it expires (R39). -/
def State.expiresNext (s : State) (p : Panel) : Bool :=
  decide ((s.seq p).outcome = .none ∧ (s.pd p).stretchLimit ≤ nextStretchCount (s.seq p).stretchCount)

/-! ### The end of a hold gap (R89, R98, R99) -/

/-- A FREE window's hold gap ends in STRETCH: release, then a new FREE request while the outcome is none, else
the frame start that was deferred to this end (R38, R39, R89, R98). -/
def freeHoldEnd (p : Panel) (s : State) : State :=
  let s1 := release p s
  if (s1.seq p).outcome = .none ∧ s1.sensesStretch p = true then makeFreeRequest p s1
  else
    let s2 := runGrantRule s1
    if (s2.seq p).deferred then frameStart p s2 else s2

/-- A TIMELINE window's hold gap ends: release and, where the next segment is SENSE, its request, then one run of
the grant rule; the next segment begins (R30, R89, R98). -/
def timelineHoldEnd (p : Panel) (s : State) : State :=
  let s1 := release p s
  endSegment p (if s1.senseFollows p then s1 else runGrantRule s1)

/-- The hold gap of the panel's window ends. -/
def holdEnd (p : Panel) (s : State) : State :=
  match (s.seq p).run with
  | .stretch => freeHoldEnd p s
  | _ => timelineHoldEnd p s

/-- The window enters HOLD; a hold gap of 0 is passed through in the same event (R95). -/
def enterHold (p : Panel) (s : State) : State :=
  if (s.pd p).holdGap = 0 then holdEnd p (setPhase p .hold s) else setPhase p .hold s

/-- A burst completes: its delivery, then the window's next burst or HOLD (R96, R97). -/
def burstDone (p : Panel) (g : Nat) (raws : List Word) (noise : Word) (s : State) : State :=
  let s1 := modClaim p (fun c => { c with window := c.window.map fun w =>
    { w with remaining := w.remaining - 1, burst := none } }) (deliver p g raws noise s)
  match (s1.claim p).window with
  | some w => if w.remaining = 0 then enterHold p s1 else beginBurst p s1
  | none => s1

/-! ### The end of a drive slot (R28, R33, R42) -/

/-- MARK or the marker line's CAPTURE, at the end of its drive slot (R42, R43). -/
def raiseMark (p : Panel) (s : State) : State :=
  let s1 := modSeq p (fun q => { q with markDone := true }) s
  match (s.pd p).binding with
  | .notice => occurs .mark p s1
  | .capture =>
    if s1.takesCapture then occurs .mark p (append (.capture (s1.captureParcel p)) s1)
    else occurs .captureLost p s1

/-- The marker is examined at the end of line y's drive slot (R42). -/
def State.markDue (s : State) (p : Panel) (y : Nat) : Bool :=
  decide ((s.pd p).marker = some y) && !(s.seq p).markDone

/-- LINE_MISS with the frame's missing count (R13). -/
def raiseLineMiss (p : Panel) (s : State) : State := occur (.panel .lineMiss p) (natWord (s.ingress p).missing) s

/-- The works of the blocks at the end of line y's drive slot that the spec does not order (R28, R33, R41, R42;
log 7); a work that would do nothing is left out. -/
def slotEndWorks (p : Panel) (y : Nat) (s : State) : List (State → State) :=
  (if s.prestartDue p then [raisePrestart p] else []) ++
  (if s.markDue p y then [raiseMark p] else []) ++
  (if y + 1 = (s.pd p).activeLines then
    (if (s.ingress p).missing ≠ 0 then [raiseLineMiss p] else []) ++ [composerFrameEnd p]
   else [])

/-- At the last active line, frame end is reached and the frame is judged (R33, R71). -/
def reachFrameEnd (p : Panel) (y : Nat) (s : State) : State :=
  if y + 1 = (s.pd p).activeLines then
    judge p (s.frameBad p) (modSeq p (fun q => { q with frameEnd := true }) s)
  else s

/-- The counts of the sequencer at the end of a drive slot (R28). -/
def Sequencer.slotEnd (y : Nat) (q : Sequencer) : Sequencer :=
  { q with linesDriven := y + 1, progress := q.progress + 1, linesLeft := q.linesLeft - 1 }

/-- The end of the drive slot of the line at the line position (R28, R33, R56, R59). -/
def slotEnd (p : Panel) (s : State) : State :=
  let y := (s.seq p).linePos
  let s1 := endDriving p (foldChecks p y (captureRow p y s))
  let s2 := reachFrameEnd p y (modSeq p (Sequencer.slotEnd y) s1)
  inFreeOrder (slotEndWorks p y s2) s2

/-- A drive slot ends; the next one begins, or the segment of `n` lines ends (R28). -/
def driveSlotDone (p : Panel) (n : Nat) (s : State) : State :=
  let s1 := slotEnd p s
  if n ≤ (s1.seq p).progress then endSegment p s1 else beginSlot p s1

/-- A blank line period ends (R29). -/
def Sequencer.blankEnd (q : Sequencer) : Sequencer :=
  { q with progress := q.progress + 1, linesLeft := q.linesLeft - 1 }

def blankDone (p : Panel) (n : Nat) (s : State) : State :=
  let s1 := examinePrestart p (modSeq p Sequencer.blankEnd s)
  if n ≤ (s1.seq p).progress then endSegment p s1 else s1

/-! ### Abandonment, lock loss, restart and stop (R25, R26, R31, R34, R47) -/

/-- The frame in progress has not reached its frame end (R34). -/
def State.frameInProgress (s : State) (p : Panel) : Bool :=
  decide ((s.seq p).run = .running) && !(s.seq p).frameEnd

/-- A frame is abandoned: judged bad, masks and accumulators discarded (R34, R58, R72). -/
def abandonFrame (p : Panel) (s : State) : State := clearFrameWork p (judge p true s)

/-- The sequencer after a loss edge in RUNNING or STRETCH (R47; log 14). -/
def Sequencer.lockLost (q : Sequencer) : Sequencer :=
  { q with run := .syncing, segment := none, phase := .none, frameEnd := false, outcome := .none,
           deferred := false, locked := false }

/-- The values a stop and a restart give the sequencer (R25, R26). A stopped panel records its lock edges as R46 and R47
state, so none of them is one that a restart cut short (R25; log 32). -/
def Sequencer.cleared (run : PanelRun) (q : Sequencer) : Sequencer :=
  { q with run := run, segment := none, progress := 0, phase := .none, linesDriven := 0, linePos := 0,
           frameEnd := false, linesLeft := 0, prestartDone := false, markDone := false, stretchCount := 0,
           outcome := .none, deferred := false, cutShort := false }

/-- The synthesizer is restarted toward the active width and line period (R44). -/
def restartSynth (p : Panel) (s : State) : State :=
  modSeq p (fun q => { q with locked := false, synthWidth := (s.pd p).width, synthPeriod := (s.pd p).linePeriod }) s

/-- A loss edge in RUNNING or STRETCH (R18, R34, R47). -/
def lockLoss (p : Panel) (s : State) : State :=
  let s1 := if s.frameInProgress p then abandonFrame p s else s
  modSeq p Sequencer.lockLost (quietPort p (freeHeld p (abortSense p s1)))

/-- What a stop and a restart do alike in the Ingress Unit, Composer, arbiter and Touch Processor (R17, R58, R100,
R101, R125). -/
def emptyPanel (p : Panel) (s : State) : State :=
  quietPort p (clearFrameWork p (emptyIngress p (modTouch p Touch.restart (abortSense p s))))

/-- The sequencer after a restart: one in SYNCING cuts an acquisition short, whose edge may still come (R26; log 32). -/
def Sequencer.restarted (q : Sequencer) : Sequencer :=
  { q.cleared .syncing with cutShort := decide (q.run = .syncing) }

/-- Step 2 of RESTART_PANEL (R26, R139). -/
def restartBlocks (p : Panel) (s : State) : State :=
  let s1 := if s.frameInProgress p then judge p true s else s
  restartSynth p (modSeq p Sequencer.restarted (emptyPanel p s1))

/-- Step 2 of STOP_PANEL (R25, R79, R138). -/
def stopBlocks (p : Panel) (s : State) : State :=
  modSup p (fun _ => Supervision.reset) (modSeq p (Sequencer.cleared .disabled) (emptyPanel p s))

end Sys2Proof.Machine
end

