-- ==== Sys2Proof/Machine/TableRequests.lean ====
section
/-! DEFINITION. WRITE_ENTRY and READ_ENTRY (spec/07 R130 to R134). -/

namespace Sys2Proof.Machine

/-! ### WRITE_ENTRY (R130 to R133) -/

/-- The four fields the supervision lock freezes are equal (R80, R81). -/
def sameSupervision (a b : PanelDescriptor) : Bool :=
  decide (a.tolerance = b.tolerance ∧ a.staleLimit = b.staleLimit ∧ a.policy = b.policy ∧ a.fill = b.fill)

/-- A write of an entry is forbidden by a region lock or by the supervision lock (R132). -/
def Mgmt.lockedAgainst (m : Mgmt) (i : Nat) : Entry → Bool
  | .descriptor d => m.supLock && !sameSupervision d m.active.pd
  | .segment _ => false
  | .region _ => match m.active.regions[i]? with | some r => r.locked | none => false
  | .group _ => false
  | .hop _ => false
  | .priority _ => false

/-- A write to a panel table: its checks from the panel and index on, in their order (R130). The result is the
panel and the entry to store, or the status of the refusal. -/
def panelWrite (s : State) (panel : Byte) (t : TableId) (i : Nat) (payload : List Byte) :
    Except Status (Panel × Entry) :=
  match panelOf panel with
  | none => .error .badIndex
  | some p =>
    if t.size ≤ i then .error .badIndex
    else match decodeEntry t (bytesWords payload) with
      | none => .error .badValue
      | some e =>
        if (s.mgmt p).commitPending then .error .pending
        else if (s.mgmt p).lockedAgainst i e then .error .locked
        else .ok (p, e)

/-- The staged entry is replaced whole (R130). -/
def stageEntry (p : Panel) (i : Nat) (e : Entry) (s : State) : State :=
  modMgmt p (fun m => { m with staged := m.staged.put i e }) s

/-- One of the flags of a source is PENDING. -/
def State.sourcePending (s : State) (src : Source) : Bool :=
  decide ((s.flag (src.flagFor .p0)).state = .pending) || decide ((s.flag (src.flagFor .p1)).state = .pending)

/-- A taken write to the Notice Priority Table; one that raises the priority from 0 while a flag of the source is
PENDING makes a choice (R133, R168, R172). -/
def setPriority (src : Source) (n : Nat) (s : State) : State :=
  let s1 := modNotices (fun u => u.setPrio src n) s
  if s.notices.prio src = 0 ∧ n ≠ 0 ∧ s.sourcePending src = true then makeChoice s1 else s1

/-- A write to the Notice Priority Table; its panel is not used (R130, R133). -/
def priorityWrite (i : Nat) (payload : List Byte) : Except Status (Source × Nat) :=
  match Source.ofCode i with
  | none => .error .badIndex
  | some src =>
    match decodeEntry .noticePriority (bytesWords payload) with
    | some (.priority n) => .ok (src, n)
    | _ => .error .badValue

/-- A table of the five panel tables (R126). -/
def TableId.isPanelTable : TableId → Bool
  | .panelDescriptor => true | .frameTimeline => true | .regionTable => true | .groupTable => true
  | .hopTable => true
  | .noticePriority => false | .panelStatus => false | .noticeTable => false | .cellState => false
  | .poolStatus => false

/-- A WRITE_ENTRY is executed: its effect and the status of its reply (R130). -/
def writeEffect (panel table : Byte) (i : Nat) (payload : List Byte) (s : State) : State × Status :=
  match TableId.ofCode table with
  | none => (s, .badTable)
  | some t =>
    if t.isPanelTable then
      match panelWrite s panel t i payload with
      | .error st => (s, st)
      | .ok (p, e) => (stageEntry p i e s, .ok)
    else if t = .noticePriority then
      match priorityWrite i payload with
      | .error st => (s, st)
      | .ok (src, n) => (setPriority src n s, .ok)
    else (s, .badTable)

/-- A WRITE_ENTRY is executed and answered (R129, R130). -/
def doWrite (panel tag table : Byte) (i : Nat) (payload : List Byte) (s : State) : State :=
  let r := writeEffect panel table i payload s
  offerReply (plainReply .writeEntry panel tag r.2) r.1

/-- WRITE_ENTRY (R130). -/
def execWriteEntry (panel tag table : Byte) (index : Word) (payload : List Byte) (s : State) :
    Host.Outcome State Fault Refusal :=
  .next (onRequest (.writeEntry panel tag table index payload) (doWrite panel tag table index.toNat payload) s)

/-! ### READ_ENTRY (R134) -/

/-- The copy bit: 0 ACTIVE, 1 STAGED; the other bits are not used (R164). -/
def readsStaged (copy : Byte) : Bool := copy.getLsbD 0

def FrontState.word : FrontState → Word | .empty => 0 | .valid => 1

/-- The words a read of a panel table returns; an active Region Table entry is followed by its front state
(R53, R162). -/
def State.tableWords (s : State) (p : Panel) (t : TableId) (staged : Bool) (i : Nat) : Option (List Word) :=
  if staged then (s.mgmt p).staged.entryWords t i
  else
    match (s.mgmt p).active.entryWords t i with
    | none => none
    | some ws =>
      if t = .regionTable then
        match (s.composer p).regions[i]? with
        | some st => some (ws ++ [st.front.word])
        | none => none
      else some ws

/-- A read of a panel table. -/
def readPanelTable (s : State) (panel : Byte) (t : TableId) (staged : Bool) (i : Nat) : Except Status (List Word) :=
  match panelOf panel with
  | none => .error .badIndex
  | some p =>
    match s.tableWords p t staged i with
    | none => .error .badIndex
    | some ws => .ok ws

/-- What a READ_ENTRY returns, or the status of its refusal (R128, R134). -/
def readEffect (panel table copy : Byte) (i : Nat) (s : State) : Except Status (List Word) :=
  match TableId.ofCode table with
  | none => .error .badTable
  | some .noticePriority =>
    match Source.ofCode i with
    | none => .error .badIndex
    | some src => .ok [natWord (s.notices.prio src)]
  | some .poolStatus => if i = 0 then .ok s.poolStatus else .error .badIndex
  | some .panelStatus =>
    match panelOf panel with
    | none => .error .badIndex
    | some p => if i = 0 then .ok (s.panelStatus p) else .error .badIndex
  | some .cellState =>
    match panelOf panel with
    | none => .error .badIndex
    | some p => if i < (s.pd p).columns * (s.pd p).rows then .ok (s.cellWords p i) else .error .badIndex
  | some .noticeTable =>
    match Source.ofCode i with
    | none => .error .badIndex
    | some (.part src) => .ok (s.flagWords (.part src))
    | some (.panel src) =>
      match panelOf panel with
      | none => .error .badIndex
      | some p => .ok (s.flagWords (.panel src p))
  | some .panelDescriptor => readPanelTable s panel .panelDescriptor (readsStaged copy) i
  | some .frameTimeline => readPanelTable s panel .frameTimeline (readsStaged copy) i
  | some .regionTable => readPanelTable s panel .regionTable (readsStaged copy) i
  | some .groupTable => readPanelTable s panel .groupTable (readsStaged copy) i
  | some .hopTable => readPanelTable s panel .hopTable (readsStaged copy) i

/-- The reply to a READ_ENTRY (R129, R134). -/
def readReply (panel tag : Byte) : Except Status (List Word) → ReplyParcel
  | .ok ws => { plainReply .readEntry panel tag .ok with entry := ws }
  | .error st => plainReply .readEntry panel tag st

/-- A READ_ENTRY is executed and answered; nothing else changes (R134). -/
def doRead (panel tag table copy : Byte) (i : Nat) (s : State) : State :=
  offerReply (readReply panel tag (readEffect panel table copy i s)) s

/-- READ_ENTRY (R134). -/
def execReadEntry (panel tag table copy : Byte) (index : Word) (s : State) : Host.Outcome State Fault Refusal :=
  .next (onRequest (.readEntry panel tag table copy index) (doRead panel tag table copy index.toNat) s)

end Sys2Proof.Machine
end

