-- ==== Sys2Proof/Machine/Validate.lean ====
section
/-! DEFINITION. Commit validation: the seven checks of R142 in their order, with the detail of a refusal. -/

namespace Sys2Proof.Machine

/-- Why a COMMIT is refused: status, detail table, detail index (R129, R142). -/
structure Refused where
  status : Status
  table : TableId
  index : Option Nat
deriving DecidableEq, Repr

/-- The lowest index below `n` that `bad` holds of. -/
def lowest (n : Nat) (bad : Nat → Bool) : Option Nat := (List.range n).find? bad

/-- Check 1: the release threshold and the line marker (R22, R106). -/
def descriptorBad (d : PanelDescriptor) : Bool :=
  decide (d.touchThreshold < d.releaseThreshold) ||
    (match d.marker with | none => false | some y => decide (d.activeLines ≤ y))

/-- The line counts of the DRIVE segments added up (R21). -/
def driveSum (es : List Segment) : Nat :=
  (es.map fun e => match e.kind with
    | .drive => e.lineCount.toNat
    | .sense => 0
    | .blank => 0
    | .stop => 0).sum

/-- Check 2: the conditions on a Frame Timeline (R21). -/
def timelineBad (t : Tables) : Bool :=
  let es := t.segments
  decide (es.length < 2) ||
  !(es.any fun e => decide (e.kind = .drive)) ||
  decide (driveSum es ≠ t.pd.activeLines) ||
  decide (es.getLast?.map (·.kind) ≠ some .blank) ||
  ((es.any fun e => decide (e.kind = .sense)) && decide (t.groupList = []))

/-- Check 3: the conditions on one valid region (R50). -/
def regionBad (d : PanelDescriptor) (r : Region) : Bool :=
  r.valid &&
    (decide (r.x1 < r.x0) || decide (r.y1 < r.y0) || decide (d.width ≤ r.x1) || decide (d.activeLines ≤ r.y1) ||
      (r.locked && r.capture) || decide (64 < r.firstBlock + r.blocksUsed))

/-- Two regions use a block in common (R49, R51). -/
def blocksClash (a b : Region) : Bool :=
  decide (a.blocksUsed ≠ 0) && decide (b.blocksUsed ≠ 0) &&
    decide (a.firstBlock < b.firstBlock + b.blocksUsed) && decide (b.firstBlock < a.firstBlock + a.blocksUsed)

/-- The regions of the other panel a commit is compared with: its active ones, and its staged ones while it has a
commit pending (R51). -/
def otherRegions (m : Mgmt) : List Region :=
  m.active.regions.toList ++ (if m.commitPending then m.staged.regions.toList else [])

/-- Check 4: region `i` of a table clashes with another of its regions or with one of the other panel's (R51). -/
def regionClashes (t : Tables) (others : List Region) (i : Nat) : Bool :=
  match t.regions[i]? with
  | none => false
  | some r =>
    (t.regions.toList.zipIdx.any fun e => decide (e.2 ≠ i) && blocksClash r e.1) ||
      others.any fun x => blocksClash r x

/-- Check 5, first condition: the group lies inside the matrix (R106). -/
def groupFits (d : PanelDescriptor) (g : Group) : Bool :=
  decide (g.row < d.rows) && decide (g.col + g.width ≤ d.columns)

/-- Two groups share a cell (R106). -/
def groupsOverlap (a b : Group) : Bool :=
  decide (a.row = b.row) && decide (a.col < b.col + b.width) && decide (b.col < a.col + a.width)

/-- Check 5: group `i` lies outside the matrix or shares a cell with another group (R106). -/
def groupBad (t : Tables) (i : Nat) : Bool :=
  match t.groupList[i]? with
  | none => false
  | some g =>
    !groupFits t.pd g || t.groupList.zipIdx.any fun e => decide (e.2 ≠ i) && groupsOverlap g e.1

/-- Check 6: the staged quota does not fit with the other panel's active quota, or with its staged quota while it
has a commit pending (R143). -/
def quotaBad (quota : Nat) (other : Mgmt) : Bool :=
  decide (Config.quotaLimit < quota + other.active.pd.quota) ||
    (other.commitPending && decide (Config.quotaLimit < quota + other.staged.pd.quota))

/-- The first failing check of a staged set, against what the other panel holds; none where it passes (R142; the
detail of check 1 is the one Panel Descriptor entry, log 15). -/
def validate (t : Tables) (other : Mgmt) : Option Refused :=
  if descriptorBad t.pd then some ⟨.badValue, .panelDescriptor, some 0⟩
  else if timelineBad t then some ⟨.badTimeline, .frameTimeline, none⟩
  else match lowest 16 (fun i => match t.regions[i]? with | some r => regionBad t.pd r | none => false) with
  | some i => some ⟨.badCombo, .regionTable, some i⟩
  | none =>
    match lowest 16 (regionClashes t (otherRegions other)) with
    | some i => some ⟨.overlap, .regionTable, some i⟩
    | none =>
      match lowest 64 (groupBad t) with
      | some i => some ⟨.overlap, .groupTable, some i⟩
      | none =>
        if quotaBad t.pd.quota other then some ⟨.noSpace, .panelDescriptor, none⟩
        else if t.hopLength = 0 then some ⟨.badValue, .hopTable, none⟩
        else none

end Sys2Proof.Machine
end

