-- ==== Sys2Proof/Machine/Commands.lean ====
section
/-! DEFINITION. The COMMAND parcels (spec/07, sections 7.3 to 7.6). -/

namespace Sys2Proof.Machine

/-- A command with a panel operand: refused with BAD_INDEX where the operand is not 0 or 1 (R136). -/
def withPanel (panel tag : Byte) (run : Panel → State → State) (s : State) : State :=
  match panelOf panel with
  | none => replyCommand panel tag .badIndex s
  | some p => run p s

/-! ### COMMIT (R142, R144) -/

/-- The reply to a COMMIT that validation refuses (R129). -/
def refusedReply (panel tag : Byte) (r : Refused) : ReplyParcel :=
  { plainReply .command panel tag r.status with detailTable := r.table.code, detailIndex := r.index }

/-- The OK reply to a COMMIT (R129, R144). -/
def commitReply (panel tag : Byte) (d : Disposition) : ReplyParcel :=
  { plainReply .command panel tag .ok with disposition := d }

/-- A COMMIT is executed (R142, R144). -/
def doCommit (panel tag : Byte) (p : Panel) (s : State) : State :=
  if (s.mgmt p).commitPending then replyCommand panel tag .pending s
  else match validate (s.mgmt p).staged (s.mgmt p.other) with
    | some r => offerReply (refusedReply panel tag r) s
    | none =>
      match (s.seq p).run with
      | .disabled => offerReply (commitReply panel tag .applied) (applyCommit p s)
      | .syncing => offerReply (commitReply panel tag .applied) (applyCommit p s)
      | .running =>
        offerReply (commitReply panel tag .pending) (modMgmt p (fun m => { m with commitPending := true }) s)
      | .stretch =>
        offerReply (commitReply panel tag .pending) (modMgmt p (fun m => { m with commitPending := true }) s)

/-- COMMIT (R142). -/
def execCommit (panel tag : Byte) (s : State) : Host.Outcome State Fault Refusal :=
  .next (onRequest (.commit panel tag) (withPanel panel tag (doCommit panel tag)) s)

/-! ### START_PANEL, STOP_PANEL, RESTART_PANEL (R137 to R139) -/

/-- The panel enters SYNCING and its synthesizer is restarted (R24, R44). R24 does not say what an acquire edge of an
acquisition does that this restart cuts short. That the next acquire edge is taken as that of the acquisition that follows, and
so makes a frame start, is the model's choice (DESIGN CHOICE, log 35). -/
def startPanel (p : Panel) (s : State) : State :=
  restartSynth p (modSeq p (fun q =>
    { q with run := .syncing, segment := none, linesDriven := 0, linePos := 0, frameEnd := false }) s)

def doStart (panel tag : Byte) (p : Panel) (s : State) : State :=
  if (s.seq p).run ≠ .disabled ∨ (s.mgmt p).committed = false then replyCommand panel tag .state s
  else replyCommand panel tag .ok (startPanel p s)

/-- START_PANEL (R137). -/
def execStartPanel (panel tag : Byte) (s : State) : Host.Outcome State Fault Refusal :=
  .next (onRequest (.startPanel panel tag) (withPanel panel tag (doStart panel tag)) s)

def doStop (panel tag : Byte) (p : Panel) (s : State) : State :=
  if (s.mgmt p).supLock then replyCommand panel tag .locked s
  else replyCommand panel tag .ok (stopBlocks p (applyPending p s))

/-- STOP_PANEL (R138). -/
def execStopPanel (panel tag : Byte) (s : State) : Host.Outcome State Fault Refusal :=
  .next (onRequest (.stopPanel panel tag) (withPanel panel tag (doStop panel tag)) s)

def doRestart (panel tag : Byte) (p : Panel) (s : State) : State :=
  if (s.seq p).run = .disabled then replyCommand panel tag .state s
  else replyCommand panel tag .ok (restartBlocks p (applyPending p s))

/-- RESTART_PANEL (R139). -/
def execRestartPanel (panel tag : Byte) (s : State) : Host.Outcome State Fault Refusal :=
  .next (onRequest (.restartPanel panel tag) (withPanel panel tag (doRestart panel tag)) s)

/-! ### LOCK_SUPERVISION (R80) -/

/-- The four supervision fields of a descriptor are set equal to another's (R80). -/
def PanelDescriptor.withSupervisionOf (d a : PanelDescriptor) : PanelDescriptor :=
  { d with tolerance := a.tolerance, staleLimit := a.staleLimit, policy := a.policy, fill := a.fill }

/-- The lock is set and the staged supervision fields take the active values (R80). -/
def Mgmt.lock (m : Mgmt) : Mgmt :=
  { m with supLock := true, staged := { m.staged with pd := m.staged.pd.withSupervisionOf m.active.pd } }

def doLock (panel tag : Byte) (p : Panel) (s : State) : State :=
  if (s.mgmt p).commitPending then replyCommand panel tag .pending s
  else replyCommand panel tag .ok (modMgmt p Mgmt.lock s)

/-- LOCK_SUPERVISION (R80). -/
def execLockSupervision (panel tag : Byte) (s : State) : Host.Outcome State Fault Refusal :=
  .next (onRequest (.lockSupervision panel tag) (withPanel panel tag (doLock panel tag)) s)

/-! ### CLEAR_NOTICE (R136, R140, R173) -/

/-- The flag a CLEAR_NOTICE names: BAD_INDEX for no source code, or for a panel-scope source whose panel operand is
not 0 or 1; the panel operand of a part-scope source is not used (R136). -/
def clearTarget (panel source : Byte) : Except Status FlagId :=
  match Source.ofCode source.toNat with
  | none => .error .badIndex
  | some (.part src) => .ok (.part src)
  | some (.panel src) =>
    match panelOf panel with
    | none => .error .badIndex
    | some p => .ok (.panel src p)

/-- The clearing of a flag (R140, R173). -/
def clearFlag (f : FlagId) (s : State) : State := modNotices (fun u => u.setFlag f (u.flag f).cleared) s

def doClear (panel tag source : Byte) (s : State) : State :=
  match clearTarget panel source with
  | .error st => replyCommand panel tag st s
  | .ok f =>
    if f.source.sticky = false then replyCommand panel tag .badCmd s
    else if (s.flag f).state = .inQueue then replyCommand panel tag .state s
    else replyCommand panel tag .ok (clearFlag f s)

/-- CLEAR_NOTICE (R140). -/
def execClearNotice (panel tag source : Byte) (s : State) : Host.Outcome State Fault Refusal :=
  .next (onRequest (.clearNotice panel tag source) (doClear panel tag source) s)

/-! ### RESET_BASELINE (R117, R141) -/

def doResetBaseline (panel tag : Byte) (p : Panel) (s : State) : State :=
  replyCommand panel tag .ok (modTouch p (fun t => { t with reseed := true }) s)

/-- RESET_BASELINE (R141). -/
def execResetBaseline (panel tag : Byte) (s : State) : Host.Outcome State Fault Refusal :=
  .next (onRequest (.resetBaseline panel tag) (withPanel panel tag (doResetBaseline panel tag)) s)

/-! ### RESET_PART (R147, R148) -/

/-- A panel forbids RESET_PART: its supervision lock is set or an active region is locked (R66, R81, R147). -/
def Mgmt.forbidsReset (m : Mgmt) : Bool := m.supLock || m.active.regions.toList.any fun r => r.locked

/-- A NOTICE parcel in transmission no longer moves its flag, which the reset has cleared (R148, R171). -/
def orphaned : OutParcel → OutParcel
  | .notice n => .notice { n with orphan := true }
  | .reply r => .reply r
  | .touch t => .touch t
  | .check c => .check c
  | .capture c => .capture c

/-- The Outbound Queue after RESET_PART: the parcel in transmission and every REPLY stay (R148). -/
def resetQueue (l : Link) : Link :=
  { l with queue := l.begun.map orphaned ++ l.unsent.filter OutParcel.isReply }

/-- The part after RESET_PART's effects, before its reply: every block but the head link at its reset values
(R147, R148). -/
def resetBlocks (s : State) : State :=
  { State.reset with
    resetPin := s.resetPin
    link := resetQueue s.link
    notices := { NoticeUnit.reset with able := s.notices.able }
    openOrders := s.openOrders
    pending := s.pending }

/-- A NOTICE parcel was removed, so the queue reports able (R148, R159, R171). -/
def reportRemoval (before : Link) (s : State) : State :=
  if before.unsent.any OutParcel.isNotice then reportAble s else s

def doResetPart (panel tag : Byte) (s : State) : State :=
  if (s.mgmt .p0).forbidsReset || (s.mgmt .p1).forbidsReset then replyCommand panel tag .locked s
  else replyCommand panel tag .ok (reportRemoval s.link (resetBlocks s))

/-- RESET_PART (R147); it has no panel operand. -/
def execResetPart (panel tag : Byte) (s : State) : Host.Outcome State Fault Refusal :=
  .next (onRequest (.resetPart panel tag) (doResetPart panel tag) s)

/-! ### Unknown commands (R136) -/

/-- UNKNOWN_COMMAND: refused with BAD_CMD (R136). -/
def execUnknownCommand (panel tag code : Byte) (s : State) : Host.Outcome State Fault Refusal :=
  .next (onRequest (.unknownCommand panel tag code) (replyCommand panel tag .badCmd) s)

end Sys2Proof.Machine
end

