-- ==== Sys2Proof/Machine/FrameParcels.lean ====
section
/-! DEFINITION. The frame markers and pixel lines the host sends (spec/01). -/

namespace Sys2Proof.Machine

/-- Any OPEN ticket becomes CLOSED, and UNCLOSED occurs (R5). -/
def closeUnclosed (p : Panel) (s : State) : State :=
  match (s.ingress p).openTicket with
  | some _ => occurs .unclosed p (modIngress p Ingress.closeOpen s)
  | none => s

/-- The appending step: refused with two tickets waiting, otherwise appended and reported (R5, R37). -/
def appendOrRefuse (p : Panel) (f : Word) (s : State) : State :=
  if 2 ≤ (s.ingress p).waiting.length then occurs .ticketRefused p s
  else reportAppend p (modIngress p (Ingress.appendTicket f) s)

/-- A FRAME_OPEN parcel at the Ingress Unit (R4, R5). -/
def openFrame (p : Panel) (f : Word) (s : State) : State :=
  if (s.seq p).run = .disabled then occurs .stray p s
  else if (s.ingress p).passesReference f = false then occurs .ticketRefused p s
  else appendOrRefuse p f (closeUnclosed p s)

/-- FRAME_OPEN (R4, R5). -/
def execFrameOpen (p : Panel) (f : Word) (s : State) : Host.Outcome State Fault Refusal :=
  .next (onArrival (.frameOpen p f) (openFrame p f) s)

/-- A FRAME_CLOSE parcel at the Ingress Unit (R6). -/
def closeFrame (p : Panel) (f : Word) (s : State) : State :=
  if (s.ingress p).openTicket.map (·.frame) = some f then modIngress p Ingress.closeOpen s else occurs .stray p s

/-- FRAME_CLOSE (R6). -/
def execFrameClose (p : Panel) (f : Word) (s : State) : Host.Outcome State Fault Refusal :=
  .next (onArrival (.frameClose p f) (closeFrame p f) s)

/-- A LINE parcel at the Ingress Unit: what its checks decide (R8). -/
def takeLine (p : Panel) (f : Word) (y : Nat) (pxs : List Pixel) (s : State) : State :=
  match lineVerdict (s.pd p) (s.seq p) (s.ingress p) f y pxs.length with
  | .disabled => occurs .stray p s
  | .badForm => badParcel s
  | .notOpen => occurs .stray p s
  | .late => occurs .stray p s
  | .order => occurs .stray p s
  | .overrun => occurs .overrun p s
  | .accepted => acceptLine p f y pxs s

/-- LINE (R8, R9). -/
def execLine (p : Panel) (f y : Word) (pxs : List Pixel) (s : State) : Host.Outcome State Fault Refusal :=
  .next (onArrival (.line p f y pxs) (takeLine p f y.toNat pxs) s)

end Sys2Proof.Machine
end

