-- ==== Sys2Proof/Machine/LinkEvents.lean ====
section
/-! DEFINITION. The RESET pin and the head link: signal, training, reception and transmission (spec/07 R149, spec/08). -/

namespace Sys2Proof.Machine

/-! ### The RESET pin (R149; log 5) -/

/-- POWER_ON_RESET: every piece of state takes its reset value and the pin is asserted; the queue of commands and
the model's own counter of free orders stay. -/
def execPowerOnReset (s : State) : Host.Outcome State Fault Refusal :=
  .next { State.reset with resetPin := true, openOrders := s.openOrders, pending := s.pending }

/-- RESET_RELEASE: the part leaves reset; the link, DOWN, may begin to train. -/
def execResetRelease (s : State) : Host.Outcome State Fault Refusal := .next { s with resetPin := false }

/-! ### Link states (R150, R151) -/

def setLinkState (st : LinkState) (s : State) : State := modLink (fun l => { l with state := st }) s

/-- SIGNAL_DETECT: a DOWN link goes to TRAINING; while the pin is asserted the link stays DOWN (R150). -/
def execSignalDetect (s : State) : Host.Outcome State Fault Refusal :=
  .next (if s.link.state = .down ∧ s.resetPin = false then setLinkState .training s else s)

/-- The link enters UP: LINK_UP occurs, then the queue, which holds no NOTICE, reports able (R150, R168; log 8). -/
def enterUp (s : State) : State := reportAble (occur (.part .linkUp) 0 (setLinkState .up s))

/-- TRAINING_SUCCESS (R150). -/
def execTrainingSuccess (s : State) : Host.Outcome State Fault Refusal :=
  .next (if s.link.state = .training then enterUp s else s)

/-- ALIGNMENT_LOSS: UP goes to TRAINING with the flush, and LINK_RETRAIN occurs (R150, R151; log 9). -/
def execAlignmentLoss (s : State) : Host.Outcome State Fault Refusal :=
  .next (if s.link.state = .up then occur (.part .linkRetrain) 0 (leaveUp .training s) else s)

/-- SIGNAL_LOSS: TRAINING and UP go to DOWN without a notice, UP with the flush (R150, R151). -/
def execSignalLoss (s : State) : Host.Outcome State Fault Refusal :=
  .next (match s.link.state with
    | .down => s
    | .training => setLinkState .down s
    | .up => leaveUp .down s)

/-! ### Reception (R154, R155; log 4) -/

def setRx (r : Receiver) (s : State) : State := modLink (fun l => { l with rx := r }) s

/-- SYNC_VALUE_RECEIVED: in HUNT a byte equal to 0xA7 begins a header (R154). -/
def execSyncValueReceived (s : State) : Host.Outcome State Fault Refusal :=
  .next (if s.link.state = .up ∧ s.link.rx = .hunt then setRx (.header [syncByte]) s else s)

/-- The header bytes received so far; none in BODY. -/
def Receiver.headerSoFar : Receiver → Option (List Byte)
  | .hunt => some []
  | .header hb => some hb
  | .body _ => none

/-- A completed header is examined (R154). -/
def examineHeader (bytes : List Byte) (h : Header) (s : State) : State :=
  match h.examine with
  | .badCheck => badParcel (setRx (resumeHunt (bytes.drop 1)) s)
  | .badKind => badParcel (setRx .hunt s)
  | .tooLong => badParcel (setRx .hunt s)
  | .body => setRx (.body bytes) s

/-- HEADER_COMPLETE: the bytes complete the header in reception; from HUNT they are the whole header (R154). -/
def execHeaderComplete (bytes : List Byte) (s : State) : Host.Outcome State Fault Refusal :=
  .next (if s.link.state = .up ∧ bytes ≠ [] then
      match s.link.rx.headerSoFar with
      | none => s
      | some hb =>
        match Header.ofBytes (hb ++ bytes) with
        | none => s
        | some h => if h.sync = syncByte then examineHeader (hb ++ bytes) h s else s
    else s)

/-- A parcel in BODY completes with these bytes and fails a check of R155. -/
def State.discards (s : State) (bytes : List Byte) : Bool :=
  s.linkUp && (splitParcel bytes).isSome && (parseParcel bytes).isNone &&
    match s.link.rx with
    | .hunt => true
    | .header _ => false
    | .body hb => decide (hb = bytes.take 8)

/-- INBOUND_PARCEL_DISCARD: the parcel is discarded whole with one BAD_PARCEL, and HUNT resumes (R154, R155). -/
def execInboundParcelDiscard (bytes : List Byte) (s : State) : Host.Outcome State Fault Refusal :=
  .next (if s.discards bytes then badParcel (setRx .hunt s) else s)

/-! ### Transmission (R160) -/

/-- TRANSMISSION_START: while the link is UP and nothing is in transmission, the oldest entry begins (R160). -/
def execTransmissionStart (s : State) : Host.Outcome State Fault Refusal :=
  .next (match s.link.sending, s.link.queue with
    | none, x :: _ => if s.link.state = .up then modLink (fun l => { l with sending := some x.bytes }) s else s
    | _, _ => s)

/-- The owner of a completed parcel is told (R160). -/
def completed : OutParcel → State → State
  | .reply _, s => modLink (fun l => { l with replyCount := l.replyCount - 1 }) s
  | .notice n, s => completeNotice n s
  | .touch _, s => s
  | .check _, s => s
  | .capture _, s => s

/-- TRANSMISSION_COMPLETE: the entry leaves the queue and its owner is told (R160). -/
def execTransmissionComplete (s : State) : Host.Outcome State Fault Refusal :=
  .next (match s.link.sending, s.link.queue with
    | some _, x :: rest => completed x (modLink (fun l => { l with queue := rest, sending := none }) s)
    | _, _ => s)

end Sys2Proof.Machine
end

