-- ==== Sys2Proof/Machine/PortEvents.lean ====
section
/-! DEFINITION. The events of the panel ports: lock edges and line periods (spec/02). -/

namespace Sys2Proof.Machine

/-- LOCK_ACQUIRED by the active edge select (R45). -/
def acquireNotice (p : Panel) (s : State) : State :=
  match (s.pd p).edgeSelect with
  | .acquire => occurs .lockAcquired p s
  | .both => occurs .lockAcquired p s
  | .none => s
  | .loss => s

/-- LOCK_LOST by the active edge select (R45). -/
def lossNotice (p : Panel) (s : State) : State :=
  match (s.pd p).edgeSelect with
  | .loss => occurs .lockLost p s
  | .both => occurs .lockLost p s
  | .none => s
  | .acquire => s

def setLocked (p : Panel) (b : Bool) (s : State) : State := modSeq p (fun q => { q with locked := b }) s

/-- An acquire edge: in DISABLED only the lock state changes; in SYNCING it makes a frame start (R45, R46). It
cannot be taken in RUNNING or STRETCH. -/
def takeAcquire (p : Panel) (s : State) : State :=
  match (s.seq p).run with
  | .disabled => setLocked p true s
  | .syncing => frameStart p (acquireNotice p (setLocked p true s))
  | .running => s
  | .stretch => s

/-- The first acquire edge after a restart in SYNCING: where it belongs to the acquisition that the restart cut short it
has no effect, and the panel waits for the next one; else it is taken. Which of the two it is, is a free value (R26;
log 32). -/
def acquireAfterCut (p : Panel) (s : State) : State :=
  let s' := { modSeq p (fun q => { q with cutShort := false }) s with openOrders := s.openOrders + 1 }
  if Config.freeCut s.openOrders then s' else takeAcquire p s'

/-- ACQUIRE_EDGE: a restart in SYNCING bears on the next edge in SYNCING alone (R26, R46). -/
def execAcquireEdge (p : Panel) (s : State) : Host.Outcome State Fault Refusal :=
  .next (if s.resetPin = false ∧ (s.seq p).locked = false then
      (if (s.seq p).run = .syncing ∧ (s.seq p).cutShort = true then acquireAfterCut p s else takeAcquire p s)
    else s)

/-- A loss edge: in DISABLED only the lock state changes; RUNNING and STRETCH go to SYNCING (R45, R47). -/
def takeLoss (p : Panel) (s : State) : State :=
  match (s.seq p).run with
  | .disabled => setLocked p false s
  | .syncing => lossNotice p (setLocked p false s)
  | .running => lockLoss p (lossNotice p s)
  | .stretch => lockLoss p (lossNotice p s)

/-- LOSS_EDGE (R47). -/
def execLossEdge (p : Panel) (s : State) : Host.Outcome State Fault Refusal :=
  .next (if s.resetPin = false ∧ (s.seq p).locked = true then takeLoss p s else s)

/-- The panel is RUNNING in a segment of a kind; the result is its line count (R28, R29). -/
def State.walking (s : State) (p : Panel) (k : SegKind) : Option Nat :=
  match (s.seq p).run, s.currentSegment p with
  | .running, some e => if e.kind = k then some e.lineCount.toNat else none
  | _, _ => none

/-- DRIVE_SLOT_END (R28). -/
def execDriveSlotEnd (p : Panel) (s : State) : Host.Outcome State Fault Refusal :=
  .next (match s.walking p .drive with
    | some n => driveSlotDone p n s
    | none => s)

/-- BLANK_LINE_END (R29). -/
def execBlankLineEnd (p : Panel) (s : State) : Host.Outcome State Fault Refusal :=
  .next (match s.walking p .blank with
    | some n => blankDone p n s
    | none => s)

/-- STRETCH_LINE_BOUNDARY (R36, R37, R39; log 13). -/
def execStretchLineBoundary (p : Panel) (s : State) : Host.Outcome State Fault Refusal :=
  .next (if (s.seq p).run = .stretch then stretchBoundary p s else s)

/-- STRETCH_EXPIRY: the boundary at which the stretch expires (R39; log 13). -/
def execStretchExpiry (p : Panel) (s : State) : Host.Outcome State Fault Refusal :=
  .next (if (s.seq p).run = .stretch ∧ s.expiresNext p = true then stretchBoundary p s else s)

end Sys2Proof.Machine
end

