-- ==== Sys2Proof/Machine/SenseEvents.lean ====
section
/-! DEFINITION. The events of sense requests and windows (spec/05). -/

namespace Sys2Proof.Machine

/-- The wait deadline comes first: the request is withdrawn, SENSE_SKIPPED occurs, the grant rule runs for the
other panel, and the next segment begins (R92). -/
def deadlineCame (p : Panel) (s : State) : State := endSegment p (runGrantRule (occurs .senseSkipped p (withdraw p s)))

/-- The panel's waiting request has a wait deadline (R84, R92). -/
def State.hasDeadline (s : State) (p : Panel) : Bool :=
  match (s.claim p).request with
  | some r => r.deadline.isSome
  | none => false

/-- WAIT_DEADLINE (R92). -/
def execWaitDeadline (p : Panel) (s : State) : Host.Outcome State Fault Refusal :=
  .next (if s.hasDeadline p then deadlineCame p s else s)

/-- SWITCH_GAP_END (R95). -/
def execSwitchGapEnd (p : Panel) (s : State) : Host.Outcome State Fault Refusal :=
  .next (if (s.seq p).phase = .switch then enterSetup p s else s)

/-- SETUP_GAP_END (R95). -/
def execSetupGapEnd (p : Panel) (s : State) : Host.Outcome State Fault Refusal :=
  .next (if (s.seq p).phase = .setup then beginBurst p s else s)

/-- The group of the burst in progress that these raw counts can come from: one for each of its cells (R97). -/
def State.burstGroup (s : State) (p : Panel) (raws : List Word) : Option Nat :=
  match (s.seq p).phase, (s.claim p).window with
  | .burst, some w =>
    match w.burst with
    | none => none
    | some b =>
      match (s.tables p).groupList[b.group]? with
      | none => none
      | some g => if raws.length = g.width then some b.group else none
  | _, _ => none

/-- BURST_COMPLETE (R97). -/
def execBurstComplete (p : Panel) (raws : List Word) (noise : Word) (s : State) : Host.Outcome State Fault Refusal :=
  .next (match s.burstGroup p raws with
    | some g => burstDone p g raws noise s
    | none => s)

/-- HOLD_GAP_END (R99). -/
def execHoldGapEnd (p : Panel) (s : State) : Host.Outcome State Fault Refusal :=
  .next (if (s.seq p).phase = .hold then holdEnd p s else s)

end Sys2Proof.Machine
end

