-- ==== Sys2Proof/Machine/Dispatch.lean ====
section
/-! DEFINITION. The meaning of each command. -/

namespace Sys2Proof.Machine

def exec (i : Instr) (s : State) : Host.Outcome State Fault Refusal :=
  match i with
  | .powerOnReset => Sys2Proof.Machine.execPowerOnReset s
  | .signalDetect => Sys2Proof.Machine.execSignalDetect s
  | .trainingSuccess => Sys2Proof.Machine.execTrainingSuccess s
  | .alignmentLoss => Sys2Proof.Machine.execAlignmentLoss s
  | .signalLoss => Sys2Proof.Machine.execSignalLoss s
  | .headerComplete bytes => Sys2Proof.Machine.execHeaderComplete bytes s
  | .inboundParcelDiscard bytes => Sys2Proof.Machine.execInboundParcelDiscard bytes s
  | .frameOpen panel frame => Sys2Proof.Machine.execFrameOpen panel frame s
  | .frameClose panel frame => Sys2Proof.Machine.execFrameClose panel frame s
  | .line panel frame lineNo pixels => Sys2Proof.Machine.execLine panel frame lineNo pixels s
  | .writeEntry panel tag table index payload => Sys2Proof.Machine.execWriteEntry panel tag table index payload s
  | .readEntry panel tag table copy index => Sys2Proof.Machine.execReadEntry panel tag table copy index s
  | .commit panel tag => Sys2Proof.Machine.execCommit panel tag s
  | .startPanel panel tag => Sys2Proof.Machine.execStartPanel panel tag s
  | .stopPanel panel tag => Sys2Proof.Machine.execStopPanel panel tag s
  | .restartPanel panel tag => Sys2Proof.Machine.execRestartPanel panel tag s
  | .lockSupervision panel tag => Sys2Proof.Machine.execLockSupervision panel tag s
  | .clearNotice panel tag source => Sys2Proof.Machine.execClearNotice panel tag source s
  | .resetBaseline panel tag => Sys2Proof.Machine.execResetBaseline panel tag s
  | .resetPart panel tag => Sys2Proof.Machine.execResetPart panel tag s
  | .unknownCommand panel tag code => Sys2Proof.Machine.execUnknownCommand panel tag code s
  | .transmissionStart => Sys2Proof.Machine.execTransmissionStart s
  | .transmissionComplete => Sys2Proof.Machine.execTransmissionComplete s
  | .acquireEdge panel => Sys2Proof.Machine.execAcquireEdge panel s
  | .lossEdge panel => Sys2Proof.Machine.execLossEdge panel s
  | .driveSlotEnd panel => Sys2Proof.Machine.execDriveSlotEnd panel s
  | .blankLineEnd panel => Sys2Proof.Machine.execBlankLineEnd panel s
  | .stretchLineBoundary panel => Sys2Proof.Machine.execStretchLineBoundary panel s
  | .stretchExpiry panel => Sys2Proof.Machine.execStretchExpiry panel s
  | .waitDeadline panel => Sys2Proof.Machine.execWaitDeadline panel s
  | .switchGapEnd panel => Sys2Proof.Machine.execSwitchGapEnd panel s
  | .setupGapEnd panel => Sys2Proof.Machine.execSetupGapEnd panel s
  | .burstComplete panel raws noise => Sys2Proof.Machine.execBurstComplete panel raws noise s
  | .holdGapEnd panel => Sys2Proof.Machine.execHoldGapEnd panel s
  | .resetRelease => Sys2Proof.Machine.execResetRelease s
  | .syncValueReceived => Sys2Proof.Machine.execSyncValueReceived s

end Sys2Proof.Machine
end

