-- ==== Sys2Proof/Safety.lean ====
section
/-! DEFINITION. What the part keeps true of its own state: the invariants the statements are about, in the words of
the rules, and the ranges of table entries (spec/01 to spec/09). -/

namespace Sys2Proof.Machine

/-! ### The parts of the state, for frames -/

/-- The parts a frame speaks of: together they are the whole state. -/
inductive Part where
  | resetPin | linkState | receiver | queue | sending | replyCount
  | flags | priorities | able
  | freeSlots | store | arbiter | openOrders | pending
  | mgmt (p : Panel) | seq (p : Panel) | ingress (p : Panel) | composer (p : Panel) | sup (p : Panel)
  | claim (p : Panel) | touch (p : Panel)
deriving DecidableEq

/-- What a part holds. -/
def Part.Ty : Part → Type
  | .resetPin => Bool
  | .linkState => LinkState
  | .receiver => Receiver
  | .queue => List OutParcel
  | .sending => Option (List Byte)
  | .replyCount => Nat
  | .flags => Vector Flag 4 × Vector Flag 19 × Vector Flag 19
  | .priorities => Vector Nat 4 × Vector Nat 19
  | .able => Bool
  | .freeSlots => Nat
  | .store => Memory
  | .arbiter => Arbiter
  | .openOrders => Nat
  | .pending => List Instr
  | .mgmt _ => Mgmt
  | .seq _ => Sequencer
  | .ingress _ => Ingress
  | .composer _ => Composer
  | .sup _ => Supervision
  | .claim _ => SenseClaim
  | .touch _ => Touch

/-- The value of a part. -/
def State.get (s : State) : (a : Part) → a.Ty
  | .resetPin => s.resetPin
  | .linkState => s.link.state
  | .receiver => s.link.rx
  | .queue => s.link.queue
  | .sending => s.link.sending
  | .replyCount => s.link.replyCount
  | .flags => (s.notices.part, s.notices.panel0, s.notices.panel1)
  | .priorities => (s.notices.partPrio, s.notices.panelPrio)
  | .able => s.notices.able
  | .freeSlots => s.freeSlots
  | .store => s.store
  | .arbiter => s.arb
  | .openOrders => s.openOrders
  | .pending => s.pending
  | .mgmt p => s.mgmt p
  | .seq p => s.seq p
  | .ingress p => s.ingress p
  | .composer p => s.composer p
  | .sup p => s.sup p
  | .claim p => s.claim p
  | .touch p => s.touch p

/-- Every part but those listed is in `t` what it is in `s`. -/
def Unchanged (changed : List Part) (s t : State) : Prop := ∀ a, a ∉ changed → t.get a = s.get a

/-- The parts an occurrence of a notice can change (R167 to R169). -/
def noticeParts : List Part := [.flags, .able, .queue]

/-! ### The stores (R52, R108) -/

/-- The sparse stores are in canonical form, and the Retained Store lists addresses of its 64 blocks alone. -/
structure StoresOk (s : State) : Prop where
  store  : Memory.wf s.store = true
  range  : ∀ c ∈ s.store, c.1 < 64 * blockBytes
  cells0 : Sparse.wf Cell.reset s.pan0.touch.cells = true
  cells1 : Sparse.wf Cell.reset s.pan1.touch.cells = true

/-! ### Tables (R21, R22, R49 to R51, R105, R106, R123, R126, R142, R143) -/

/-- A block is among those of a valid region's images: two images from the first block on where capture is ON, one
where the region is fixed, and none where it is a window (R49). -/
def Region.UsesBlock (r : Region) (k : Nat) : Prop :=
  r.valid = true ∧ r.firstBlock ≤ k ∧
    (r.capture = true ∧ k < r.firstBlock + 2 * r.imageBlocks ∨
     r.capture = false ∧ r.source = .retained ∧ k < r.firstBlock + r.imageBlocks)

/-- The conditions on a Panel Descriptor by itself (R22, R106). -/
structure DescriptorFits (d : PanelDescriptor) : Prop where
  thresholds : d.releaseThreshold ≤ d.touchThreshold
  marker     : ∀ y, d.marker = some y → y < d.activeLines

/-- The conditions on a Frame Timeline, read with its Panel Descriptor and Group Table (R21). -/
structure TimelineFits (t : Tables) : Prop where
  count  : 2 ≤ t.segments.length ∧ t.segments.length ≤ 48
  drives : ∃ e ∈ t.segments, e.kind = .drive
  lines  : ((t.segments.filter fun e => decide (e.kind = .drive)).map fun e => e.lineCount.toNat).sum = t.pd.activeLines
  last   : t.segments.getLast?.map Segment.kind = some .blank
  groups : (∃ e ∈ t.segments, e.kind = .sense) → t.groupList ≠ []

/-- The conditions on a valid region by itself, with the geometry of its Panel Descriptor (R50). -/
structure RegionFits (d : PanelDescriptor) (r : Region) : Prop where
  ordered : r.x0 ≤ r.x1 ∧ r.y0 ≤ r.y1
  inside  : r.x1 < d.width ∧ r.y1 < d.activeLines
  lock    : ¬ (r.capture = true ∧ r.locked = true)
  blocks  : ∀ k, r.UsesBlock k → k ≤ 63

/-- A group lies inside the matrix (R106). -/
def GroupFits (d : PanelDescriptor) (g : Group) : Prop := g.row < d.rows ∧ g.col + g.width ≤ d.columns

/-- A table set passes the commit checks that read its own panel alone: 1, 2, 3, the own pairs of 4, 5 and 7 (R142). -/
structure SelfValid (t : Tables) : Prop where
  descriptor : DescriptorFits t.pd
  timeline   : TimelineFits t
  regions    : ∀ r ∈ t.regions.toList, r.valid = true → RegionFits t.pd r
  apart      : ∀ (i j : Nat) (a b : Region), i ≠ j → t.regions[i]? = some a → t.regions[j]? = some b →
    ∀ k, ¬ (a.UsesBlock k ∧ b.UsesBlock k)
  inside     : ∀ g ∈ t.groupList, GroupFits t.pd g
  cells      : ∀ (i j : Nat) (a b : Group), i ≠ j → t.groupList[i]? = some a → t.groupList[j]? = some b →
    ∀ c ∈ a.cells, c ∉ b.cells
  hops       : t.hops[0] ≠ none

/-- Two table sets of different panels can be in force together: no Retained Store block is in the images of a
region of each (R51), and the two quotas together are at most 92 (R143). -/
structure Together (t u : Tables) : Prop where
  blocks : ∀ a ∈ t.regions.toList, ∀ b ∈ u.regions.toList, ∀ k, ¬ (a.UsesBlock k ∧ b.UsesBlock k)
  quotas : t.pd.quota + u.pd.quota ≤ 92

/-- The table sets a panel works from now, or may work from after its pending commit is applied. -/
def Mgmt.inForceOrPending (m : Mgmt) : List Tables := m.active :: (if m.commitPending then [m.staged] else [])

/-- Every set in force or pending is valid, and those of the two panels go together in every combination (R51, R143). -/
structure TablesOk (m0 m1 : Mgmt) : Prop where
  valid0   : ∀ t ∈ m0.inForceOrPending, SelfValid t
  valid1   : ∀ t ∈ m1.inForceOrPending, SelfValid t
  together : ∀ t ∈ m0.inForceOrPending, ∀ u ∈ m1.inForceOrPending, Together t u

/-- What a lock freezes, the staged copy holds as the active one does (R65, R80, R81). -/
structure LocksHold (m : Mgmt) : Prop where
  region      : ∀ i < 16, (m.active.regions.toList[i]?).map Region.locked = some true →
    m.staged.regions.toList[i]? = m.active.regions.toList[i]?
  supervision : m.supLock = true → sameSupervision m.staged.pd m.active.pd = true

/-- The management state of the part is in order. -/
structure MgmtOk (s : State) : Prop where
  tables : TablesOk (s.mgmt .p0) (s.mgmt .p1)
  locks0 : LocksHold (s.mgmt .p0)
  locks1 : LocksHold (s.mgmt .p1)

/-! ### Region states (R53) -/

/-- An invalid entry and a window region have front state EMPTY and front side FIRST, and a fixed region has front side
FIRST (R53, R63, R64). -/
structure ImagesOk (s : State) : Prop where
  idle  : ∀ (p : Panel) (i : Nat) (r : Region) (st : RegionState), (s.tables p).regions[i]? = some r →
    (s.composer p).regions[i]? = some st → r.valid = false ∨ r.mode = .window → st.front = .empty ∧ st.side = .first
  fixed : ∀ (p : Panel) (i : Nat) (r : Region) (st : RegionState), (s.tables p).regions[i]? = some r →
    (s.composer p).regions[i]? = some st → r.valid = true → r.mode = .fixed → st.side = .first

/-! ### The Line Pool (R1, R2) -/

/-- The pool slots in use: queue entries and held slots of both panels (R1). -/
def State.slotsInUse (s : State) : Nat :=
  (s.ingress .p0).queue.length + (s.ingress .p0).held + (s.ingress .p1).queue.length + (s.ingress .p1).held

/-- Every slot is in one place, and no queue is longer than its active quota (R1, R2). -/
structure PoolOk (s : State) : Prop where
  places : s.freeSlots + s.slotsInUse = Config.poolSlots
  quota  : ∀ p, (s.ingress p).queue.length ≤ (s.pd p).quota

/-! ### Tickets and the Line Queue (R3, R7) -/

/-- The place of a frame number among the tickets, oldest first. -/
def Ingress.ticketPlace (g : Ingress) (f : Word) : Nat := g.tickets.findIdx fun t => decide (t.frame = f)

/-- Entry `b` is after entry `a`: ahead of its frame, or a larger line of the same frame (R7). -/
def LineSlot.after (a b : LineSlot) : Prop := ahead b.frame a.frame = true ∨ (b.frame = a.frame ∧ a.lineNo < b.lineNo)

/-- Each element of a list stands in a relation to the one after it. -/
def Adjacent {α : Type} (r : α → α → Prop) : List α → Prop
  | [] => True
  | [_] => True
  | a :: b :: l => r a b ∧ Adjacent r (b :: l)

/-- The tickets of a panel are as R3 states. -/
structure TicketsOk (g : Ingress) : Prop where
  two     : g.waiting.length ≤ 2
  closed  : ∀ t ∈ g.tickets.dropLast, t.state = .closed
  ordered : Adjacent (fun a b => ahead b.frame a.frame = true) g.tickets
  last    : ∀ t, g.scan = some t → g.lastScan = some t.frame

/-- The Line Queue of a panel: each entry is after the one before it and belongs to a ticket, older tickets'
entries first (R7). -/
structure QueueOk (g : Ingress) : Prop where
  ascending : Adjacent LineSlot.after g.queue
  owned     : ∀ e ∈ g.queue, ∃ t ∈ g.tickets, t.frame = e.frame
  byTicket  : g.queue.Pairwise fun a b => g.ticketPlace a.frame ≤ g.ticketPlace b.frame

/-- Tickets and queues of both panels. -/
structure IngressOk (s : State) : Prop where
  tickets : ∀ p, TicketsOk (s.ingress p)
  queue   : ∀ p, QueueOk (s.ingress p)

/-! ### Panel states (R23, R26, R46, R70) -/

/-- What the panel state says of the other blocks of a panel: the lock state in each panel state (R24, R46), a
segment only in RUNNING (R23, R36), an outcome and a deferred frame start only in STRETCH (R35), a cut acquisition only
in SYNCING (R26; log 32), and the values a DISABLED panel has in the Ingress Unit and the Supervision Unit (R17, R79). -/
structure RunOk (x : PanelState) : Prop where
  unlocked : x.seq.run = .syncing → x.seq.locked = false
  locked   : x.seq.run = .running ∨ x.seq.run = .stretch → x.seq.locked = true
  segment  : x.seq.segment.isSome = true ↔ x.seq.run = .running
  outcome  : x.seq.run ≠ .stretch → x.seq.outcome = .none ∧ x.seq.deferred = false
  cut      : x.seq.cutShort = true → x.seq.run = .syncing
  stopped  : x.seq.run = .disabled → x.ingress = Ingress.reset ∧ x.sup = Supervision.reset

/-! ### The Sense Arbiter (R83, R84, R90) -/

/-- How many halves a panel holds. -/
def Arbiter.heldBy (r : Arbiter) (p : Panel) : Nat :=
  (if r.a.holder = some p then 1 else 0) + (if r.b.holder = some p then 1 else 0)

/-- The phases in which a panel holds halves (R83). -/
def SensePhase.holds : SensePhase → Bool
  | .none => false | .request => false | .switch => true | .setup => true | .burst => true | .hold => true

/-- What one panel has with the arbiter fits its sequencer and the halves (R30, R37 to R39, R83 to R87; logs 10 and 12). -/
structure ClaimOk (s : State) (p : Panel) : Prop where
  one      : (s.claim p).request = none ∨ (s.claim p).window = none
  held     : s.arb.heldBy p = (match (s.claim p).window with | none => 0 | some w => w.need)
  need     : ∀ w, (s.claim p).window = some w → w.need = 1 ∨ w.need = 2
  wanted   : ∀ r, (s.claim p).request = some r → r.need = 1 ∨ r.need = 2
  window   : (s.claim p).window.isSome = true ↔ (s.seq p).phase.holds = true
  bursting : ∀ w, (s.claim p).window = some w → (w.burst.isSome = true ↔ (s.seq p).phase = .burst)
  request  : (s.seq p).phase = .request ↔ ∃ r, (s.claim p).request = some r ∧ r.cls = .timeline
  timeline : ∀ r, (s.claim p).request = some r → r.cls = .timeline → (s.seq p).run = .running ∧ r.deadline.isSome = true
  free     : ∀ r, (s.claim p).request = some r → r.cls = .free →
    (s.seq p).run = .stretch ∧ (s.seq p).outcome = .none ∧ r.deadline = none
  idle     : (s.seq p).run = .disabled ∨ (s.seq p).run = .syncing → s.claim p = SenseClaim.reset
  segment  : (s.seq p).run = .running → s.claim p ≠ SenseClaim.reset → (s.currentSegment p).map Segment.kind = some .sense

/-- A reservation is held for a waiting TIMELINE request of need 2, of at least one half, and of halves no panel holds (R90;
log 11). -/
structure ReservationOk (s : State) : Prop where
  waits : ∀ v, s.arb.reservation = some v → s.waitsForTwo v.panel = true
  half  : ∀ v, s.arb.reservation = some v → v.a = true ∨ v.b = true
  freeA : ∀ v, s.arb.reservation = some v → v.a = true → s.arb.a.holder = none
  freeB : ∀ v, s.arb.reservation = some v → v.b = true → s.arb.b.holder = none

/-- The arbiter and both panels' claims on it; no request waits whose need can be met (R88). -/
structure SenseOk (s : State) : Prop where
  claim       : ∀ p, ClaimOk s p
  reservation : ReservationOk s
  settled     : ∀ p, s.canGrant p = false

/-! ### The head link and the notices (R158, R165 to R171) -/

def OutParcel.isTouchOf (p : Panel) : OutParcel → Bool | .touch t => decide (t.panel = p) | _ => false
def OutParcel.isCheckOf (p : Panel) : OutParcel → Bool | .check c => decide (c.panel = p) | _ => false

/-- A NOTICE parcel of a flag that has not been reset since the parcel was built. -/
def OutParcel.isNoticeOf (f : FlagId) : OutParcel → Bool
  | .notice n => decide (n.flag = f) && !n.orphan
  | _ => false

/-- The Outbound Queue keeps its caps (R158), counted over the unsent parcels for TOUCH and CHECK (R159). -/
structure QueueCaps (l : Link) : Prop where
  reply   : l.queue.countP OutParcel.isReply = l.replyCount
  replies : l.replyCount ≤ Config.replyCap
  notice  : l.queue.countP OutParcel.isNotice ≤ 1
  capture : l.queue.countP OutParcel.isCapture ≤ Config.captureCap
  touch   : ∀ p, l.unsent.countP (OutParcel.isTouchOf p) ≤ 1
  check   : ∀ p, l.unsent.countP (OutParcel.isCheckOf p) ≤ 1
  sending : l.sending.isSome = true → l.queue ≠ []

/-- The flags agree with the queue and the priorities are 0 to 3 (R165 to R171). -/
structure FlagsOk (s : State) : Prop where
  able     : s.notices.able = true ↔ s.link.state = .up ∧ s.link.queue.countP OutParcel.isNotice = 0
  chosen   : s.notices.able = true → s.notices.choose = none
  inQueue  : ∀ f, (s.flag f).state = .inQueue ↔ s.link.queue.any (OutParcel.isNoticeOf f) = true
  carried  : ∀ n, OutParcel.notice n ∈ s.link.queue → n.orphan = false → n.count ≤ (s.flag n.flag).count
  clear    : ∀ f, (s.flag f).state = .clear → (s.flag f).count = 0
  counted  : ∀ f, (s.flag f).state = .pending ∨ (s.flag f).state = .inQueue → 1 ≤ (s.flag f).count
  capped   : ∀ f, (s.flag f).count ≤ 255
  ranks    : ∀ src, s.notices.prio src ≤ 3
  sticky   : ∀ f, (s.flag f).state = .announced → f.source.sticky = true

/-- The link: while it is not UP, nothing is received or queued (R150, R161). -/
structure LinkOk (s : State) : Prop where
  caps  : QueueCaps s.link
  flags : FlagsOk s
  down  : s.link.state ≠ .up → s.link.queue = [] ∧ s.link.sending = none ∧ s.link.rx = .hunt

/-- While the RESET pin is asserted the part stays at its reset values (R149, R150). -/
def ResetHeld (s : State) : Prop :=
  s.resetPin = true → s = { State.reset with resetPin := true, openOrders := s.openOrders, pending := s.pending }

/-! ### Ranges of table entries (R20, R48, R105, R123, R127) -/

/-- The ranges of R127, in the units of R162. -/
structure PanelDescriptor.InRange (d : PanelDescriptor) : Prop where
  width : 64 ≤ d.width ∧ d.width ≤ 2560
  activeLines : 64 ≤ d.activeLines ∧ d.activeLines ≤ 1600
  linePeriod : 200 ≤ d.linePeriod ∧ d.linePeriod ≤ 6000
  stretchLimit : d.stretchLimit ≤ 4095
  prestartLead : d.prestartLead ≤ 255
  marker : ∀ y, d.marker = some y → y ≤ 1599
  quota : 4 ≤ d.quota ∧ d.quota ≤ 88
  tolerance : d.tolerance ≤ 255
  staleLimit : d.staleLimit ≤ 15
  sensePriority : d.sensePriority ≤ 3
  burstLength : 20 ≤ d.burstLength ∧ d.burstLength ≤ 400
  switchGap : d.switchGap ≤ 255
  setupGap : d.setupGap ≤ 255
  holdGap : d.holdGap ≤ 255
  waitLimit : d.waitLimit ≤ 2000
  columns : 1 ≤ d.columns ∧ d.columns ≤ 64
  rows : 1 ≤ d.rows ∧ d.rows ≤ 48
  pitchX : 1 ≤ d.pitchX ∧ d.pitchX ≤ 255
  pitchY : 1 ≤ d.pitchY ∧ d.pitchY ≤ 255
  touchThreshold : 1 ≤ d.touchThreshold ∧ d.touchThreshold ≤ 32767
  releaseThreshold : 1 ≤ d.releaseThreshold ∧ d.releaseThreshold ≤ 32767
  driftStep : d.driftStep ≤ 255
  maxContacts : 1 ≤ d.maxContacts ∧ d.maxContacts ≤ 16
  noiseThreshold : d.noiseThreshold ≤ 65535
  hopTrigger : 1 ≤ d.hopTrigger ∧ d.hopTrigger ≤ 15

/-- The fields of an entry of a table are in the ranges its rule gives. -/
def Entry.InRange (t : TableId) : Entry → Prop
  | .descriptor d => t = .panelDescriptor ∧ d.InRange
  | .segment e => t = .frameTimeline ∧
      match e.kind with
      | .drive => 1 ≤ e.lineCount.toNat ∧ e.lineCount.toNat ≤ 1600
      | .blank => 1 ≤ e.lineCount.toNat ∧ e.lineCount.toNat ≤ 1023
      | .sense => 1 ≤ e.groupCount.toNat ∧ e.groupCount.toNat ≤ 8 ∧ (e.yieldCode = 0#16 ∨ e.yieldCode = 1#16)
      | .stop => True
  | .region r => t = .regionTable ∧ r.x0 ≤ 2559 ∧ r.x1 ≤ 2559 ∧ r.y0 ≤ 1599 ∧ r.y1 ≤ 1599 ∧ r.firstBlock ≤ 63
  | .group g => t = .groupTable ∧ g.row ≤ 47 ∧ g.col ≤ 63 ∧ 1 ≤ g.width ∧ g.width ≤ 32
  | .hop h => t = .hopTable ∧ (h = none ∨ ∃ n, h = some n ∧ 50 ≤ n ∧ n ≤ 500 ∧ n % 5 = 0)
  | .priority n => t = .noticePriority ∧ n ≤ 3

/-- Every entry of one copy of a panel's tables is in range. -/
structure Tables.InRange (t : Tables) : Prop where
  descriptor : t.pd.InRange
  timeline   : ∀ e ∈ t.timeline.toList, Entry.InRange .frameTimeline (.segment e)
  regions    : ∀ r ∈ t.regions.toList, Entry.InRange .regionTable (.region r)
  groups     : ∀ g ∈ t.groups.toList, Entry.InRange .groupTable (.group g)
  hops       : ∀ h ∈ t.hops.toList, Entry.InRange .hopTable (.hop h)

/-- Every entry of both copies of both panels' tables is in range (R131). -/
def RangesOk (s : State) : Prop := ∀ p, (s.mgmt p).staged.InRange ∧ (s.mgmt p).active.InRange

/-- The number of words of an entry of a table that can be written (R162). -/
def TableId.words : TableId → Nat
  | .panelDescriptor => 33 | .frameTimeline => 4 | .regionTable => 11 | .groupTable => 4 | .hopTable => 1
  | .noticePriority => 1 | .panelStatus => 0 | .noticeTable => 0 | .cellState => 0 | .poolStatus => 0

/-! ### Replies and notices, as the rules tell them -/

/-- A management parcel is executed: it arrives while fewer than 4 replies are queued (R157). -/
def Taken (c : Instr) (s : State) : Prop := arrives c s = true ∧ s.link.replyCount < 4

/-- The newest entry of the queue is a reply, counted, and nothing but notices has joined before it; the receiver is
back in HUNT (R129, R154, R157). -/
def Replied (s t : State) (r : ReplyParcel) : Prop :=
  (∃ sent, t.link.queue = s.link.queue ++ sent ++ [.reply r] ∧ sent.all OutParcel.isNotice = true) ∧
  t.link.replyCount = s.link.replyCount + 1 ∧ t.link.rx = .hunt

/-- The chosen flag `f` is IN_QUEUE, its NOTICE parcel is the newest entry, and the unit is not able (R168, R169). -/
structure NoticeSent (s t : State) (f : FlagId) : Prop where
  parcel : t.link.queue = s.link.queue ++ [.notice
    { flag := f, count := (s.flag f).count,
      scanFrame := (match f with | .part _ => none | .panel _ p => (s.ingress p).scan.map Ticket.frame),
      info := (s.flag f).info, orphan := false }]
  chosen : t.flag f = { s.flag f with state := .inQueue }
  others : ∀ g, g ≠ f → t.flag g = s.flag g
  able   : t.notices.able = false
  frame  : Unchanged [.queue, .flags, .able] s t

/-- An outcome is that of the choice made at `s`: nothing is placed where there is no candidate (R168, R169). -/
def ChoiceMade (s : State) (o : Host.Outcome State Fault Refusal) : Prop :=
  (s.notices.choose = none → o = .next s) ∧
  ∀ f, s.notices.choose = some f → ∃ t, o = .next t ∧ NoticeSent s t f

/-- The flag after an occurrence (R167). -/
def Flag.raised (x : Flag) (info : Word) : Flag :=
  { state := if x.state = .clear then .pending else x.state
    count := min 255 (x.count + 1)
    info := info
    late := x.late || (decide (x.state = .inQueue) && decide (x.count = 255)) }

/-- An outcome is that of one occurrence on flag `f` at `s`: the flag is counted, and where that makes it PENDING
while the unit is able, the choice is made (R167, R168). -/
def Raises (f : FlagId) (info : Word) (s : State) (o : Host.Outcome State Fault Refusal) : Prop :=
  if (s.flag f).state = .clear ∧ s.notices.able = true then
    ChoiceMade { s with notices := s.notices.setFlag f ((s.flag f).raised info) } o
  else o = .next { s with notices := s.notices.setFlag f ((s.flag f).raised info) }

/-- The state with the receiver in HUNT. -/
def State.hunting (s : State) : State := { s with link := { s.link with rx := .hunt } }

/-- A command stands for a management parcel of a kind with a panel field and a tag (R156). -/
def Requests (c : Instr) (kind : RequestKind) (panel tag : Byte) : Prop :=
  match parcelParts c with
  | some (.writeEntry, p, t, _, _) => kind = .writeEntry ∧ panel = p ∧ tag = t
  | some (.readEntry, p, t, _, _) => kind = .readEntry ∧ panel = p ∧ tag = t
  | some (.command, p, t, _, _) => kind = .command ∧ panel = p ∧ tag = t
  | some (.frameOpen, _, _, _, _) => False
  | some (.frameClose, _, _, _, _) => False
  | some (.line, _, _, _, _) => False
  | none => False

/-- A reply that carries a status alone (R129). -/
def statusReply (kind : RequestKind) (panel tag : Byte) (st : Status) : ReplyParcel :=
  ⟨kind, panel, tag, st, .none, 0, none, []⟩

/-! ### Tickets, lines and panels, as the rules tell them -/

/-- The reference frame of a panel: the newest waiting ticket's, else the scan ticket's, else the last scan frame. -/
def referenceFrame (g : Ingress) : Option Word :=
  (g.waiting.getLast?.map Ticket.frame).or ((g.scan.map Ticket.frame).or g.lastScan)

/-- A ticket as the closing step leaves it. -/
def closedTicket (k : Ticket) : Ticket := { k with state := .closed }

/-- Check 3 of a LINE passes: a ticket is OPEN and has its frame number. -/
def OpenFor (g : Ingress) (f : Word) : Prop := ∃ k ∈ g.tickets, k.state = .opened ∧ k.frame = f

/-- Check 4 of a LINE fails: the line is late. -/
def LineLate (q : Sequencer) (g : Ingress) (f y : Word) : Prop :=
  g.scan.map Ticket.frame = some f ∧ y.toNat ≤ q.linePos

/-- Check 5 of a LINE passes: the line is after the queue tail. -/
def LineInOrder (g : Ingress) (f y : Word) : Prop :=
  ∀ e, g.queue.getLast? = some e → ahead f e.frame = true ∨ (f = e.frame ∧ e.lineNo < y.toNat)

/-- The Ingress state, the Touch Processor and the region states as STOP_PANEL and RESTART_PANEL leave them (R17, R58,
R125), given what they were when the command's first step was done. -/
def Emptied (u t : State) (p : Panel) : Prop :=
  t.ingress p = ⟨none, [], none, [], none, none, 0⟩ ∧
  t.freeSlots = u.freeSlots + ((u.ingress p).queue.length + (u.ingress p).held) ∧
  t.claim p = ⟨none, none⟩ ∧ t.arb.a.holder ≠ some p ∧ t.arb.b.holder ≠ some p ∧
  (t.composer p).driven = none ∧
  (∀ i : Fin 16, (t.composer p).regions[i].front = (u.composer p).regions[i].front ∧
    (t.composer p).regions[i].side = (u.composer p).regions[i].side ∧
    (t.composer p).regions[i].mask = [] ∧ (t.composer p).regions[i].acc = none) ∧
  (∀ col row, (t.touch p).cell col row = { (u.touch p).cell col row with contact := false }) ∧
  (t.touch p).cursor = 0 ∧ (t.touch p).cycleOpen = false ∧ (t.touch p).noiseMax = 0 ∧
  (t.touch p).cycle = (u.touch p).cycle + 1 ∧ (t.touch p).reseed = (u.touch p).reseed ∧
  (t.touch p).hop = (u.touch p).hop ∧ (t.touch p).hopPending = (u.touch p).hopPending ∧
  (t.touch p).noisy = (u.touch p).noisy ∧ (t.touch p).lastHad = (u.touch p).lastHad

/-- The sequencer's values that STOP_PANEL and RESTART_PANEL set alike (R25, R26; log 12). -/
def SequencerCleared (q : Sequencer) : Prop :=
  q.segment = none ∧ q.phase = .none ∧ q.progress = 0 ∧ q.linesDriven = 0 ∧ q.linePos = 0 ∧ q.frameEnd = false ∧
  q.linesLeft = 0 ∧ q.prestartDone = false ∧ q.markDone = false ∧ q.stretchCount = 0 ∧ q.outcome = .none ∧
  q.deferred = false

/-- The sequencer after the application of a commit that takes the descriptor from `old` to `new`: a change of width or line
period retunes the synthesizer, and nothing else of it changes (R44). -/
def retuned (old new : PanelDescriptor) (q : Sequencer) : Sequencer :=
  if old.width = new.width ∧ old.linePeriod = new.linePeriod then q
  else { q with synthWidth := new.width, synthPeriod := new.linePeriod }

/-- The last users of the halves once panel `p` has released those it held in `s` (R99, R101). -/
def LastUsersOf (s t : State) (p : Panel) : Prop :=
  t.arb.a.lastUser = (if s.arb.a.holder = some p then some p else s.arb.a.lastUser) ∧
  t.arb.b.lastUser = (if s.arb.b.holder = some p then some p else s.arb.b.lastUser)

/-- Panel `q` holds every half that it held (R83, R101). -/
def StillHolds (s t : State) (q : Panel) : Prop :=
  (s.arb.a.holder = some q → t.arb.a.holder = some q) ∧ (s.arb.b.holder = some q → t.arb.b.holder = some q)

/-- The supervision state after a bad judgement: the stale count rises, up to 15, and a LIVE panel whose count is then at or
above a nonzero limit goes to SAFE at the next frame start (R73, R74). -/
def judgedBad (limit : Nat) (v : Supervision) : Supervision :=
  { v with
    stale := min 15 (v.stale + 1)
    next := if v.mode = .safe ∨ limit ≠ 0 ∧ limit ≤ min 15 (v.stale + 1) then .safe else .live }

/-- The state after a STOP_PANEL's or RESTART_PANEL's first step: a pending commit applied, with COMMIT_DONE. -/
def afterPending (p : Panel) (s : State) : State :=
  if (s.mgmt p).commitPending then occurs .commitDone p (applyCommit p s) else s

/-- What an event of one panel can change of the other panel `q`: its sense phase, its claim, and what a burst's
beginning changes of its Touch Processor, and those only where it had a request waiting (R88, R101, R110). -/
structure OtherKept (q : Panel) (s t : State) : Prop where
  phase   : t.seq q = { s.seq q with phase := (t.seq q).phase }
  scan    : (t.touch q).cells = (s.touch q).cells ∧ (t.touch q).cursor = (s.touch q).cursor ∧
    (t.touch q).cycle = (s.touch q).cycle ∧ (t.touch q).noisy = (s.touch q).noisy ∧
    (t.touch q).lastHad = (s.touch q).lastHad
  waiting : (s.claim q).request = none → t.seq q = s.seq q ∧ t.claim q = s.claim q ∧ t.touch q = s.touch q

/-- The parts that an event with a run of the grant rule can change. -/
def grantParts : List Part :=
  [.arbiter, .seq .p0, .seq .p1, .claim .p0, .claim .p1, .touch .p0, .touch .p1, .flags, .able, .queue]

/-- A flag's count after `b` says whether its source occurred once. -/
def Counted (f : FlagId) (b : Bool) (s t : State) : Prop :=
  (t.flag f).count = if b then min 255 ((s.flag f).count + 1) else (s.flag f).count

/-- The state in which segment 0 of a new frame begins: steps 1 to 5 of a frame start of panel `p` are done, from state `s`. A
slot that leaves the queue, or that is a last host line at the entry into SAFE, is free again (R12, R14, R35, R44, R59, R75,
R110, R144). -/
structure FrameBegun (s u : State) (p : Panel) : Prop where
  commit   : u.mgmt p = if (s.mgmt p).commitPending then
    { s.mgmt p with active := (s.mgmt p).staged, commitPending := false, committed := true } else s.mgmt p
  sup      : u.sup p = { s.sup p with mode := (s.sup p).next }
  seq      : u.seq p = { retuned (s.pd p) (u.pd p) (s.seq p) with
    run := .running, segment := none, linesDriven := 0, linePos := 0, frameEnd := false,
    linesLeft := (u.tables p).nominalLength, prestartDone := false, markDone := false, outcome := .none, deferred := false }
  ingress  : u.ingress p =
    (let g := (afterPending p s).ingress p
     { g with
       scan := g.waiting.head?, waiting := g.waiting.tail
       lastScan := (g.waiting.head?.map Ticket.frame).or g.lastScan
       queue := g.queue.filter fun e => g.waiting.any fun k => decide (k.frame = e.frame)
       missing := 0
       lastHost := if (s.sup p).mode = .live ∧ (s.sup p).next = .safe then none else g.lastHost })
  slots    : u.freeSlots + ((u.ingress p).queue.length + (u.ingress p).held) =
    (afterPending p s).freeSlots + (((afterPending p s).ingress p).queue.length + ((afterPending p s).ingress p).held)
  regions  : ∀ (i : Nat) (r : Region) (st : RegionState), (u.tables p).regions[i]? = some r →
    ((afterPending p s).composer p).regions[i]? = some st → (u.composer p).regions[i]? =
      some { st with acc := if r.valid && r.check then some ⟨0xFFFFFFFF#32, 0⟩ else none }
  driven   : (u.composer p).driven = (s.composer p).driven
  store    : u.store = (afterPending p s).store
  touch    : u.touch p =
    (let x := (afterPending p s).touch p
     if x.cycleOpen then { x with spanned := min 255 (x.spanned + 1) } else x)
  overrun  : (u.flag (.panel .overrun p)).count = ((afterPending p s).flag (.panel .overrun p)).count
  frame    : Unchanged [.mgmt p, .sup p, .seq p, .ingress p, .composer p, .touch p, .store, .freeSlots, .flags, .able,
    .queue] s u

/-- Segment 0 begins at `u`, and then, where the lead is not less than the nominal length of the frame, PRESTART occurs; `t` is
the state that leaves. A SENSE segment whose request is withdrawn at once ends in the same event (R27 to R30, R35, R41). -/
def FirstSegment (u t : State) (p : Panel) : Prop :=
  ∃ (e : Segment) (v : State), (u.tables p).segments[0]? = some e ∧
    (e.kind = .drive → v = beginSlot p (u.setPanel p
      { u.panel p with seq := { u.seq p with segment := some 0, progress := 0 } })) ∧
    (e.kind = .blank → v = u.setPanel p
      { u.panel p with
        seq := { u.seq p with segment := some 0, progress := 0 }, composer := { u.composer p with driven := none } }) ∧
    (e.kind = .sense →
      let asked := makeTimelineRequest p e (u.setPanel p
        { u.panel p with seq := { u.seq p with segment := some 0 }, composer := { u.composer p with driven := none } })
      v = if asked.2 then endSegment p asked.1 else asked.1) ∧
    if (u.pd p).prestartLead ≠ 0 ∧ (u.tables p).nominalLength ≤ (u.pd p).prestartLead then
      Raises (.panel .prestart p) 0
        (v.setPanel p { v.panel p with seq := { v.seq p with prestartDone := true } }) (.next t)
    else t = v

/-- A frame start of panel `p` takes the part from `s` to `t`: its five steps, then segment 0 and PRESTART, with what they say of
`t` itself (R14, R35, R41, R59, R75, R144). -/
structure FrameStarted (s t : State) (p : Panel) : Prop where
  steps    : ∃ u, FrameBegun s u p ∧ FirstSegment u t p
  run      : (t.seq p).run = .running ∧ (t.seq p).segment.isSome = true
  values   : (t.seq p).linesDriven = 0 ∧ (t.seq p).linePos = 0 ∧ (t.seq p).frameEnd = false ∧
    (t.seq p).markDone = false ∧ (t.seq p).outcome = .none
  nominal  : (t.seq p).linesLeft = (t.tables p).nominalLength
  prestart : (t.seq p).prestartDone =
    decide ((t.pd p).prestartLead ≠ 0 ∧ (t.tables p).nominalLength ≤ (t.pd p).prestartLead)
  commit   : t.mgmt p = if (s.mgmt p).commitPending then
    { s.mgmt p with active := (s.mgmt p).staged, commitPending := false, committed := true } else s.mgmt p
  done     : Counted (.panel .commitDone p) (s.mgmt p).commitPending s t
  mode     : t.sup p = { s.sup p with mode := (s.sup p).next }
  entered  : Counted (.panel .safeEntered p) (decide ((s.sup p).mode = .live ∧ (s.sup p).next = .safe)) s t
  left     : Counted (.panel .safeLeft p) (decide ((s.sup p).mode = .safe ∧ (s.sup p).next = .live)) s t
  ticket   : (t.ingress p).scan = ((afterPending p s).ingress p).waiting.head? ∧
    (t.ingress p).waiting = ((afterPending p s).ingress p).waiting.tail
  checks   : ∀ (i : Nat) (r : Region), (t.tables p).regions[i]? = some r →
    (t.composer p).regions[i]?.map RegionState.acc = some (if r.valid && r.check then some ⟨0xFFFFFFFF#32, 0⟩ else none)
  other    : OtherKept p.other s t
  frame    : Unchanged (.mgmt p :: .sup p :: .ingress p :: .composer p :: .store :: .freeSlots :: grantParts) s t

/-- A burst of panel `p` begins: of the group the cursor names, at the frequency of the Hop Table entry that the hop index
names once a pending hop is made; a burst of group 0 starts a cycle (R96, R110, R122). -/
structure BurstBegun (s t : State) (p : Panel) : Prop where
  phase  : t.seq p = { s.seq p with phase := .burst }
  cycle  : t.touch p = if (s.touch p).cursor ≠ 0 then s.touch p else
    if (s.touch p).hopPending then
      { s.touch p with
        cycleOpen := true, noiseMax := 0, spanned := 1, reseed := true, hopPending := false
        hop := if (s.touch p).hop + 1 < (s.tables p).hopLength then (s.touch p).hop + 1 else 0 }
    else { s.touch p with cycleOpen := true, noiseMax := 0, spanned := 1 }
  window : ∀ w, (s.claim p).window = some w → ∃ b, t.claim p = ⟨(s.claim p).request, some { w with burst := some b }⟩ ∧
    b.group = (s.touch p).cursor ∧
    ∀ f, (s.tables p).hops[(t.touch p).hop]? = some (some f) → b.frequency = f
  hop    : Counted (.panel .hop p) (decide ((s.touch p).cursor = 0) && (s.touch p).hopPending) s t
  frame  : Unchanged [.seq p, .claim p, .touch p, .flags, .able, .queue] s t

/-- The panel's request is the one a SENSE segment `e` makes (R84 to R86). -/
def TimelineRequestOf (s : State) (p : Panel) (e : Segment) (r : Request) : Prop :=
  r.cls = .timeline ∧ r.groups = e.groupCount.toNat ∧
  (r.need = 2 ↔ ∃ j < e.groupCount.toNat, ∃ g,
    (s.tables p).groupList[((s.touch p).cursor + j) % (s.tables p).groupList.length]? = some g ∧ 16 < g.width) ∧
  (r.need = 1 ∨ r.need = 2) ∧
  r.yield = some (if e.yieldCode = 1#16 then .skip else .wait) ∧
  r.deadline = if e.yieldCode = 1#16 ∨ (s.pd p).waitLimit = 0 then none else some (s.pd p).waitLimit

/-- A half that panel `p` may take: free, and not reserved for the other panel (R88). -/
def FreeFor (s : State) (p : Panel) : HalfName → Prop
  | .a => s.arb.a.holder = none ∧ ∀ v, s.arb.reservation = some v → v.a = true → v.panel = p
  | .b => s.arb.b.holder = none ∧ ∀ v, s.arb.reservation = some v → v.b = true → v.panel = p

/-- The need of a request of panel `p` can be met by the halves that the panel may take (R88). -/
def CanMeet (s : State) (p : Panel) (r : Request) : Prop :=
  FreeFor s p .a ∧ FreeFor s p .b ∨ r.need = 1 ∧ (FreeFor s p .a ∨ FreeFor s p .b)

/-- One of the two halves. -/
def Arbiter.half (r : Arbiter) : HalfName → Half
  | .a => r.a
  | .b => r.b

/-- The halves that a request takes at its grant: both for a need of 2, and for a need of 1 half A before half B (R88). -/
def TakesHalf (s : State) (p : Panel) (r : Request) : HalfName → Prop
  | .a => r.need = 2 ∨ FreeFor s p .a
  | .b => r.need = 2 ∨ ¬ FreeFor s p .a

/-- A switch gap is due at the grant: the last user of a half it takes is the other panel (R95). For a panel's first window after
a reset this is the model's choice of R95 over R103 (DESIGN CHOICE, log 36). -/
def SwitchDue (s : State) (p : Panel) (r : Request) : Prop :=
  ∃ h, TakesHalf s p r h ∧ (s.arb.half h).lastUser = some p.other

/-- The window of a request of panel `p` stands in a phase before its first burst, and nothing else has changed but the halves. -/
def WindowIn (s t : State) (p : Panel) (r : Request) (ph : SensePhase) : Prop :=
  t.seq p = { s.seq p with phase := ph } ∧ t.claim p = ⟨none, some ⟨r.need, r.groups, none⟩⟩ ∧
  Unchanged [.arbiter, .seq p, .claim p] s t

/-- A request of panel `p` is granted: the halves it takes, whose last users stay, and the phase its window enters, through
gaps of 0 in the same event (R88, R90, R95; log 36). -/
structure WindowGranted (s t : State) (p : Panel) (r : Request) : Prop where
  taken       : ∀ h, TakesHalf s p r h → t.arb.half h = ⟨some p, (s.arb.half h).lastUser⟩
  kept        : ∀ h, ¬ TakesHalf s p r h → t.arb.half h = s.arb.half h
  reservation : t.arb.reservation = s.arb.reservation.filter fun v => decide (v.panel ≠ p)
  switch      : SwitchDue s p r → (s.pd p).switchGap ≠ 0 → WindowIn s t p r .switch
  setup       : ¬ SwitchDue s p r ∨ (s.pd p).switchGap = 0 → (s.pd p).setupGap ≠ 0 → WindowIn s t p r .setup
  burst       : ¬ SwitchDue s p r ∨ (s.pd p).switchGap = 0 → (s.pd p).setupGap = 0 →
    ∃ u, WindowIn s u p r .setup ∧ BurstBegun u t p

end Sys2Proof.Machine
end

