-- ==== Sys2Proof/Certificates/Slice0/Obligations.lean ====
section
/-! DEFINITION. The statements about the part, for the provers. Each rests on the rules its docstring names. -/

open Sys2Proof Sys2Proof.Machine

/-! ### The queue of commands and the invariants -/

/-- A step takes the command at the front of the queue and executes it on the state with the queue's rest; an empty
queue leaves the part as it is (log 2); and every command answers a next state in every state, leaving the queue of
commands alone. -/
def Obligations.StepRunsFrontCommand : Prop :=
  (∀ (c : Instr) (rest : List Instr) (s : State), s.pending = c :: rest →
    step s = exec c { s with pending := rest }) ∧
  (∀ s : State, s.pending = [] → step s = .next s) ∧
  ∀ (c : Instr) (s : State), ∃ t, exec c s = .next t ∧ t.pending = s.pending

/-- The part after reset, with the RESET pin released (log 5), meets every invariant that the step statements keep. -/
def Obligations.ResetMeetsInvariants : Prop :=
  MgmtOk State.reset ∧ RangesOk State.reset ∧ StoresOk State.reset ∧ ImagesOk State.reset ∧ PoolOk State.reset ∧
  IngressOk State.reset ∧ (∀ p, RunOk (State.reset.panel p)) ∧ SenseOk State.reset ∧ LinkOk State.reset ∧
  ResetHeld State.reset

/-- Each step keeps every active or pending table set valid by the conditions of the commit checks, the two panels' sets
together in quota and blocks, the staged copies of what a lock freezes equal to the active ones, and every field of every
table entry in its range (R21, R22, R50, R51, R65, R80, R81, R106, R123, R131, R142, R143). -/
def Obligations.StepKeepsTables : Prop :=
  ∀ s t : State, MgmtOk s → RangesOk s → step s = .next t → MgmtOk t ∧ RangesOk t

/-- Each step keeps every pool slot in one place and each queue within its quota; and then a panel holds at most two
slots outside its queue, the two quotas are at most 92 together, and a slot is free for every line within the quota (R1,
R2). -/
def Obligations.StepKeepsPool : Prop :=
  (∀ s t : State, MgmtOk s → PoolOk s → step s = .next t → PoolOk t) ∧
  ∀ s : State, MgmtOk s → PoolOk s →
    (s.pd .p0).quota + (s.pd .p1).quota ≤ 92 ∧
    ∀ p, (s.ingress p).held ≤ 2 ∧
      ((s.ingress p).queue.length < (s.pd p).quota → s.slotsInUse ≤ 95 ∧ 1 ≤ s.freeSlots)

/-- Each step keeps the Retained Store and the Cell State Arrays in canonical form, and the store inside its 64
blocks (R52, R108; log 22). -/
def Obligations.StepKeepsStores : Prop :=
  ∀ s t : State, MgmtOk s → StoresOk s → step s = .next t → StoresOk t

/-- Each step keeps invalid entries and window regions EMPTY with front side FIRST, and fixed regions with front side FIRST
(R53, R63, R64). -/
def Obligations.StepKeepsImages : Prop :=
  ∀ s t : State, ImagesOk s → step s = .next t → ImagesOk t

/-- Each step keeps the tickets as R3 states, and each Line Queue ascending, every entry with its ticket, older tickets' entries
first. That the order holds from each entry to the next, and not between any two entries as R7 has it, is the model's reading of
R7 (log 31) (R3, R7; log 31). -/
def Obligations.StepKeepsTicketsAndQueues : Prop :=
  ∀ s t : State, IngressOk s → step s = .next t → IngressOk t

/-- Each step keeps the panel states consistent with the blocks, the sense claims with the halves, and leaves no request
waiting that could be granted; a FREE request waits only in a STRETCH without an outcome. That a waiting FREE request shows
sense phase NONE, that a reservation holds a half, and the bit of a deferred frame start are the model's readings (logs 10, 11
and 12) (R23, R30, R37, R38, R39, R83, R84, R85, R87, R88, R90, R91; logs 10, 11 and 12). -/
def Obligations.StepKeepsPanelsAndSense : Prop :=
  ∀ s t : State, MgmtOk s → (∀ p, RunOk (s.panel p)) → SenseOk s → step s = .next t →
    (∀ p, RunOk (t.panel p)) ∧ SenseOk t

/-- Each step keeps the caps of the Outbound Queue, the reply count, and the agreement of every notice flag with the
queue. That the caps of TOUCH and CHECK count unsent parcels alone (log 30), and the mark of a NOTICE whose flag RESET_PART has
reset (log 17), are the model's readings (R150, R157, R158, R159, R165, R167, R168, R169, R170, R171; logs 17 and 30). -/
def Obligations.StepKeepsLinkAndNotices : Prop :=
  ∀ s t : State, LinkOk s → step s = .next t → LinkOk t

/-- A locked region of an active table keeps its entry, and, where it is a fixed region, its front state, its front
side and every byte of its blocks, through every step but POWER_ON_RESET's (R65, R66; log 22). -/
def Obligations.LockedRegionIsFrozen : Prop :=
  ∀ (s t : State) (p : Panel) (i : Nat) (r : Region), MgmtOk s → StoresOk s →
    s.pending.head? ≠ some .powerOnReset → step s = .next t →
    (s.tables p).regions[i]? = some r → r.locked = true →
    (t.tables p).regions[i]? = some r ∧
    (r.valid = true → r.mode = .fixed →
      ((t.composer p).regions[i]?.map RegionState.front = (s.composer p).regions[i]?.map RegionState.front) ∧
      ((t.composer p).regions[i]?.map RegionState.side = (s.composer p).regions[i]?.map RegionState.side) ∧
      ∀ a, r.firstBlock * blockBytes ≤ a → a < (r.firstBlock + r.imageBlocks) * blockBytes →
        t.store.read a = s.store.read a)

/-! ### Parcel and entry encodings -/

/-- Every well-formed command that a parcel stands for is read back from the parcel's bytes (R152 to R156, R164). -/
def Obligations.ParcelsReadBack : Prop :=
  ∀ c : Instr, c.wf = true → (parcelParts c).isSome = true →
    ∃ bytes, parcelBytes c = some bytes ∧ parseParcel bytes = some c

/-- Entries in range and runs of words of the entry's size that pass the range check correspond one to one, and a
run of words is read back from its bytes (R130, R131, R162). -/
def Obligations.EntriesReadBack : Prop :=
  (∀ (t : TableId) (e : Entry), e.InRange t → decodeEntry t (encodeEntry e) = some e) ∧
  (∀ (t : TableId) (ws : List Word) (e : Entry), ws.length = t.words → decodeEntry t ws = some e →
    e.InRange t ∧ encodeEntry e = ws) ∧
  ∀ ws : List Word, bytesWords (wordsBytes ws) = ws

/-- The header check is the value that gives 0xFFFF with the three header words; a received header is good exactly
when the sum gives 0xFFFF; and every outbound parcel begins with a header whose check is good (R152). -/
def Obligations.HeaderCheck : Prop :=
  (∀ w0 w1 w2 : Word, w0 + w1 + w2 + headerCheck w0 w1 w2 = 0xFFFF#16) ∧
  (∀ h : Header, h.checkGood = true ↔ (h.sync ++ h.kind : Word) + (h.panel ++ h.tag) + h.len + h.check = 0xFFFF#16) ∧
  ∀ x : OutParcel, ∃ h, Header.ofBytes (x.bytes.take 8) = some h ∧ h.sync = 0xA7#8 ∧
    (h.sync ++ h.kind : Word) + (h.panel ++ h.tag) + h.len + h.check = 0xFFFF#16

/-- The bytes of each outbound parcel: the header with kind, panel, tag and payload length, the parameter block, the payload,
and the CRC of all of them (R153, R164). -/
def Obligations.OutboundLayouts : Prop :=
  let hi (n : Nat) : Byte := BitVec.ofNat 8 (n / 256)
  let lo (n : Nat) : Byte := BitVec.ofNat 8 n
  let number (w : Word) : List Byte := [hi w.toNat, lo w.toNat]
  let parcel (kind panel tag : Byte) (params payload bytes : List Byte) : Prop :=
    ∃ c1 c2 : Byte,
      let body := [0xA7#8, kind, panel, tag, hi payload.length, lo payload.length, c1, c2] ++ params ++ payload
      bytes = body ++ dwordBytes (crc32 body)
  let panelOfPart (p : Panel) : Byte := match p with | .p0 => 0 | .p1 => 1
  let mode (m : ContentMode) : Byte := match m with | .live => 0 | .safe => 1
  let frame (f : Option Word) : List Byte := match f with | none => [0, 0] | some n => number n
  let present (f : Option Word) : Byte := match f with | none => 0 | some _ => 1
  (∀ r : ReplyParcel, parcel 0x81 r.panel r.tag
    [(match r.kind with | .writeEntry => 0x10 | .readEntry => 0x11 | .command => 0x12),
     (match r.status with
      | .ok => 0x00 | .badTable => 0x01 | .badIndex => 0x02 | .badValue => 0x03 | .badTimeline => 0x04 | .badCombo => 0x05
      | .overlap => 0x06 | .noSpace => 0x07 | .pending => 0x08 | .locked => 0x09 | .state => 0x0A | .badCmd => 0x0B),
     (match r.disposition with | .none => 0 | .applied => 1 | .pending => 2), r.detailTable,
     (match r.detailIndex with | none => 0xFF | some i => hi i), (match r.detailIndex with | none => 0xFF | some i => lo i)]
    (r.entry.flatMap number) (OutParcel.bytes (.reply r))) ∧
  (∀ n : NoticeParcel, parcel 0x82 (match n.flag with | .part _ => 0xFF | .panel _ p => panelOfPart p) 0
    ([lo n.flag.source.code, lo n.count, present n.scanFrame, 0] ++ frame n.scanFrame ++ number n.info) []
    (OutParcel.bytes (.notice n))) ∧
  (∀ t : TouchParcel, ∃ flags : Byte, flags.toNat < 8 ∧ flags.getLsbD 0 = t.noisy ∧ flags.getLsbD 1 = t.truncated ∧
    flags.getLsbD 2 = t.coalesced ∧
    parcel 0x83 (panelOfPart t.panel) 0
      (number t.cycle ++ [lo t.hop, lo t.spanned, flags, lo t.contacts.length])
      (t.contacts.flatMap fun c => [lo c.col, lo c.row] ++ number (BitVec.ofInt 16 c.delta)) (OutParcel.bytes (.touch t))) ∧
  (∀ c : CheckParcel, parcel 0x84 (panelOfPart c.panel) 0
    ([present c.scanFrame, mode c.mode, lo c.skipped, lo c.entries.length] ++ frame c.scanFrame)
    (c.entries.flatMap fun e => [lo e.region, 0, hi e.substituted, lo e.substituted] ++
      [hi (e.crc.toNat / 65536), lo (e.crc.toNat / 65536), hi e.crc.toNat, lo e.crc.toNat]) (OutParcel.bytes (.check c))) ∧
  ∀ c : CaptureParcel, parcel 0x85 (panelOfPart c.panel) 0
    ([present c.scanFrame, mode c.mode] ++ frame c.scanFrame ++ [hi c.lineNo, lo c.lineNo, hi c.width, lo c.width])
    (c.pixels.flatMap fun px => [px.red, px.green, px.blue]) (OutParcel.bytes (.capture c))

/-! ### The RESET pin and the link states -/

/-- POWER_ON_RESET leaves the values that the rules give for power-on reset, and the model's own where they give none (group
count 0 and yield WAIT in entries 0 and 1 of the default Frame Timeline, log 28, and the sequencer's markers `deferred`, log
12, and `cutShort`, log 32), and asserts the pin; RESET_RELEASE changes the pin alone; while the pin is asserted no step moves
the part from its reset values (R1, R19, R23, R44, R53, R68, R70, R83, R103, R107, R149, R150, R165, R166; logs 5, 12, 28 and
32). -/
def Obligations.PowerOnReset : Prop :=
  (∀ s : State, ∃ t, exec .powerOnReset s = .next t ∧ t.resetPin = true ∧ t.pending = s.pending ∧
    t.link = ⟨.down, .hunt, [], none, 0⟩ ∧
    (∀ f, t.flag f = ⟨.clear, 0, 0, false⟩) ∧ t.notices.able = false ∧
    (∀ x ∈ [(0x01, 2), (0x02, 3), (0x03, 1), (0x04, 2), (0x10, 1), (0x11, 1), (0x12, 2), (0x13, 2), (0x14, 1), (0x15, 2),
        (0x16, 1), (0x17, 1), (0x18, 2), (0x19, 1), (0x1A, 3), (0x1B, 3), (0x1C, 2), (0x1D, 3), (0x1E, 1), (0x1F, 1),
        (0x20, 2), (0x21, 2), (0x22, 1)],
      ∀ src : Source, src.code = x.1 → t.notices.prio src = x.2) ∧
    (∀ a, t.store.read a = 0) ∧ t.freeSlots = 96 ∧ t.arb = ⟨⟨none, none⟩, ⟨none, none⟩, none⟩ ∧
    ∀ p,
      (t.mgmt p).staged = Tables.reset p ∧ (t.mgmt p).active = Tables.reset p ∧
      (t.mgmt p).commitPending = false ∧ (t.mgmt p).committed = false ∧ (t.mgmt p).supLock = false ∧
      t.seq p = { run := .disabled, segment := none, progress := 0, phase := .none, linesDriven := 0, linePos := 0,
                  frameEnd := false, linesLeft := 0, prestartDone := false, markDone := false, stretchCount := 0,
                  outcome := .none, deferred := false, locked := false, synthWidth := 64, synthPeriod := 1600,
                  cutShort := false } ∧
      t.ingress p = ⟨none, [], none, [], none, none, 0⟩ ∧
      (∀ i : Fin 16, (t.composer p).regions[i] = ⟨.empty, .first, [], none⟩) ∧ (t.composer p).driven = none ∧
      t.sup p = ⟨0, .live, .live⟩ ∧ t.claim p = ⟨none, none⟩ ∧
      (∀ col row, (t.touch p).cell col row = ⟨0, 0, false⟩) ∧ (t.touch p).cursor = 0 ∧ (t.touch p).cycle = 0 ∧
      (t.touch p).cycleOpen = false ∧ (t.touch p).noiseMax = 0 ∧ (t.touch p).spanned = 1 ∧
      (t.touch p).noisy = 0 ∧ (t.touch p).hop = 0 ∧ (t.touch p).hopPending = false ∧
      (t.touch p).reseed = true ∧ (t.touch p).lastHad = false) ∧
  (∀ s : State, exec .resetRelease s = .next { s with resetPin := false }) ∧
  ∀ s t : State, ResetHeld s → step s = .next t → ResetHeld t

/-- SIGNAL_DETECT takes a DOWN link to TRAINING, but not while the pin is asserted; SIGNAL_LOSS takes a TRAINING link to DOWN
and leaves a DOWN one, without a notice; TRAINING_SUCCESS takes a TRAINING link to UP, where LINK_UP is counted and the choice
that the report of able makes considers it with every other PENDING flag (log 8). A link that leaves UP: the parcel in
reception and every entry of the queue are gone, the reply count is 0, a flag in IN_QUEUE is PENDING again with its count,
info value and late mark, and the Touch Processor of each removed TOUCH has last report had contacts set; LINK_RETRAIN is
counted after an alignment loss, once the flush is made (log 9), and no notice after a signal loss (R150, R151, R161, R168,
R171; logs 8, 9 and 16). -/
def Obligations.LinkStates : Prop :=
  (∀ s : State, s.link.state = .down → s.resetPin = false →
    exec .signalDetect s = .next { s with link := { s.link with state := .training } }) ∧
  (∀ s : State, s.link.state = .down → s.resetPin = true → exec .signalDetect s = .next s) ∧
  (∀ s : State, s.link.state = .training →
    exec .signalLoss s = .next { s with link := { s.link with state := .down } }) ∧
  (∀ s : State, s.link.state = .down → exec .signalLoss s = .next s) ∧
  (∀ s : State, s.link.state = .training → s.notices.able = false →
    ChoiceMade
      { s with
        link := { s.link with state := .up }
        notices := { s.notices.setFlag (.part .linkUp) ((s.flag (.part .linkUp)).raised 0) with able := true } }
      (exec .trainingSuccess s)) ∧
  ∀ (s : State) (c : Instr), s.link.state = .up → LinkOk s → c = .alignmentLoss ∨ c = .signalLoss →
    ∃ t, exec c s = .next t ∧
      t.link = ⟨if c = .alignmentLoss then .training else .down, .hunt, [], none, 0⟩ ∧
      t.notices.able = false ∧
      (∀ f, t.flag f =
        (let x := s.flag f
         let y : Flag := if x.state = .inQueue then { x with state := .pending } else x
         if f = .part .linkRetrain ∧ c = .alignmentLoss then y.raised 0 else y)) ∧
      (∀ p, t.touch p = { s.touch p with lastHad := (s.touch p).lastHad || s.link.queue.any (OutParcel.isTouchOf p) }) ∧
      Unchanged (.flags :: .able :: .touch .p0 :: .touch .p1 ::
        [.linkState, .receiver, .queue, .sending, .replyCount]) s t

/-! ### Reception -/

/-- SYNC_VALUE_RECEIVED begins a header; HEADER_COMPLETE examines one, of which the sync value and any bytes before its own have
been received, or which it carries whole with the receiver in HUNT (log 4): a bad check drops header byte 0 and resumes HUNT at
byte 1, a kind that is not inbound or a length above 7680 resumes HUNT after the header, each with BAD_PARCEL, and any other
header goes on to BODY (R154; logs 4 and 29). -/
def Obligations.HeaderReception : Prop :=
  (∀ s : State, s.link.state = .up → s.link.rx = .hunt →
    exec .syncValueReceived s = .next { s with link := { s.link with rx := .header [0xA7#8] } }) ∧
  ∀ (s : State) (soFar bytes : List Byte) (b1 b2 b3 b4 b5 b6 b7 : Byte),
    s.link.state = .up → s.link.rx = .header soFar ∨ s.link.rx = .hunt ∧ soFar = [] → bytes ≠ [] →
    soFar ++ bytes = [0xA7#8, b1, b2, b3, b4, b5, b6, b7] →
    let sum : Word := (0xA7#8 ++ b1) + (b2 ++ b3) + (b4 ++ b5) + (b6 ++ b7)
    let inbound := b1 ∈ [0x01#8, 0x02#8, 0x03#8, 0x10#8, 0x11#8, 0x12#8]
    let len := (b4 ++ b5 : Word).toNat
    (sum ≠ 0xFFFF#16 → ∀ dropped kept, [b1, b2, b3, b4, b5, b6, b7] = dropped ++ kept → 0xA7#8 ∉ dropped →
      (kept = [] ∨ kept.head? = some 0xA7#8) →
      Raises (.part .badParcel) 0
        { s with link := { s.link with rx := if kept = [] then .hunt else .header kept } }
        (exec (.headerComplete bytes) s)) ∧
    (sum = 0xFFFF#16 → ¬ inbound ∨ 7680 < len →
      Raises (.part .badParcel) 0 s.hunting (exec (.headerComplete bytes) s)) ∧
    (sum = 0xFFFF#16 → inbound → len ≤ 7680 →
      exec (.headerComplete bytes) s =
        .next { s with link := { s.link with rx := .body [0xA7#8, b1, b2, b3, b4, b5, b6, b7] } })

/-- INBOUND_PARCEL_DISCARD: a complete parcel that fails a check of R155 (a length that does not suit the kind or the
table written, a wrong CRC, a panel field beyond 1 of a marker or line) is discarded whole with one BAD_PARCEL, and the
receiver is back in HUNT (R155; log 4). -/
def Obligations.BadParcelIsDiscarded : Prop :=
  ∀ (s : State) (bytes : List Byte) (h : Header) (k : InKind),
    s.link.state = .up → s.link.rx = .hunt ∨ s.link.rx = .body (bytes.take 8) →
    Header.ofBytes (bytes.take 8) = some h → h.sync = 0xA7#8 → h.checkGood = true → InKind.ofCode h.kind = some k →
    h.len.toNat ≤ 7680 → bytes.length = 8 + k.paramSize + h.len.toNat + 4 →
    (k.lengthSuits h.len.toNat = false ∨
     (k = .writeEntry ∧ ∃ n, (bytes[8]?.bind entrySize) = some n ∧ h.len.toNat ≠ n) ∨
     bytes.drop (bytes.length - 4) ≠ dwordBytes (crc32 (bytes.take (bytes.length - 4))) ∨
     (k = .frameOpen ∨ k = .line ∨ k = .frameClose) ∧ 1 < h.panel.toNat) →
    Raises (.part .badParcel) 0 s.hunting (exec (.inboundParcelDiscard bytes) s)

/-- A management parcel that arrives while fewer than 4 replies are queued is executed and answered by one reply with
its kind, panel field and tag, the newest entry of the queue, behind any NOTICE that its effects lead to (for a priority write
the model's reading, log 23); one that arrives while 4 are queued is discarded without execution, with MGMT_DROP, and nothing
else but the receiver changes (R129, R136, R157; log 23). -/
def Obligations.RequestsAreAnsweredOrDropped : Prop :=
  ∀ (c : Instr) (s : State) (kind : RequestKind) (panel tag : Byte), arrives c s = true → Requests c kind panel tag →
    (s.link.replyCount < 4 →
      ∃ t r, exec c s = .next t ∧ t.link.queue.getLast? = some (.reply r) ∧
        t.link.replyCount = s.link.replyCount + 1 ∧ t.link.rx = .hunt ∧
        r.kind = kind ∧ r.panel = panel ∧ r.tag = tag) ∧
    (s.link.replyCount = 4 → Raises (.part .mgmtDrop) 0 s.hunting (exec c s))

/-! ### Transmission -/

/-- TRANSMISSION_START: the oldest entry begins, all its bytes at once by the model's choice (log 26), and its bytes end with
the CRC of those before it; TRANSMISSION_COMPLETE of a parcel that is no notice: the entry leaves, and a REPLY lowers the
reply count by 1 (R153, R160; log 26). -/
def Obligations.Transmission : Prop :=
  (∀ (s : State) (x : OutParcel) (rest : List OutParcel), s.link.state = .up → s.link.sending = none →
    s.link.queue = x :: rest →
    ∃ body, exec .transmissionStart s =
      .next { s with link := { s.link with sending := some (body ++ dwordBytes (crc32 body)) } } ∧
      x.bytes = body ++ dwordBytes (crc32 body)) ∧
  ∀ (s : State) (x : OutParcel) (rest : List OutParcel) (sent : List Byte), s.link.sending = some sent →
    s.link.queue = x :: rest → x.isNotice = false →
    exec .transmissionComplete s = .next { s with link :=
      { s.link with queue := rest, sending := none,
                    replyCount := if x.isReply then s.link.replyCount - 1 else s.link.replyCount } }

/-- TRANSMISSION_COMPLETE of a NOTICE: the count it carried is subtracted, the flag moves by its stickiness, the
remainder and the late mark, and the queue's report of able makes a choice; after a RESET_PART no flag moves (R160,
R168, R170, R171; log 17). -/
def Obligations.NoticeCompletes : Prop :=
  ∀ (s : State) (n : NoticeParcel) (rest : List OutParcel) (sent : List Byte), s.link.sending = some sent →
    s.link.queue = .notice n :: rest →
    let x := s.flag n.flag
    let left := if x.count - n.count = 0 ∧ x.late = true then 1 else x.count - n.count
    let moved : Flag :=
      { state := if n.flag.source.sticky then .announced else if left = 0 then .clear else .pending
        count := left, info := x.info, late := false }
    let u := if n.orphan then s.notices else s.notices.setFlag n.flag moved
    ChoiceMade
      { s with link := { s.link with queue := rest, sending := none }, notices := { u with able := true } }
      (exec .transmissionComplete s)

/-! ### Notices -/

/-- An occurrence raises the count to at most 255, sets the info value, makes a CLEAR flag PENDING and marks a full
count of a flag in the queue; it acts whatever the priority, the link and the queue, and the choice it leads to is made with it
(log 33). The choice takes the PENDING flag of priority 1 to 3 that comes first by priority, code and panel, and none where
there is no such flag (R167, R168, R169; log 33). -/
def Obligations.OccurrenceAndChoice : Prop :=
  (∀ (f : FlagId) (info : Word) (s : State), Raises f info s (.next (occur f info s))) ∧
  ∀ (u : NoticeUnit) (f : FlagId),
    let able (g : FlagId) := (u.flag g).state = .pending ∧ 1 ≤ u.prio g.source ∧ u.prio g.source ≤ 3
    let rank (g : FlagId) := match g with | .panel _ .p1 => 1 | .panel _ .p0 => 0 | .part _ => 0
    u.choose = some f ↔ able f ∧ ∀ g, able g → g ≠ f →
      u.prio g.source < u.prio f.source ∨
      (u.prio g.source = u.prio f.source ∧
        (f.source.code < g.source.code ∨ (f.source.code = g.source.code ∧ rank f < rank g)))

/-- CLEAR_NOTICE of a sticky source: an ANNOUNCED or PENDING flag becomes CLEAR with count 0, info value 0 and late
mark no; a CLEAR flag stays; one in IN_QUEUE stays and the command is refused with STATE; no other flag is touched. It is
refused with BAD_INDEX where the source operand is no source code, or is a panel source's and the panel operand is not 0
or 1, and with BAD_CMD where the source is not sticky (R136, R140, R173). -/
def Obligations.ClearNotice : Prop :=
  ∀ (s : State) (panel tag source : Byte), Taken (.clearNotice panel tag source) s →
    let n := source.toNat
    let isPart := 0x01 ≤ n ∧ n ≤ 0x04
    let isPanel := 0x10 ≤ n ∧ n ≤ 0x22
    (∀ f : FlagId, (f = .part .linkRetrain ∧ n = 0x02) ∨ (∃ p, panel = panelByte p ∧
        (f = .panel .safeEntered p ∧ n = 0x1A ∨ f = .panel .lockLost p ∧ n = 0x1D)) →
      ∃ t, exec (.clearNotice panel tag source) s = .next t ∧
        t.flag f =
          (if (s.flag f).state = .announced ∨ (s.flag f).state = .pending then ⟨.clear, 0, 0, false⟩ else s.flag f) ∧
        (∀ g, g ≠ f → t.flag g = s.flag g) ∧
        Replied s t (statusReply .command panel tag (if (s.flag f).state = .inQueue then .state else .ok)) ∧
        Unchanged [.flags, .receiver, .queue, .replyCount] s t) ∧
    (¬ isPart ∧ ¬ isPanel ∨ isPanel ∧ 1 < panel.toNat → ∃ t, exec (.clearNotice panel tag source) s = .next t ∧
      Replied s t (statusReply .command panel tag .badIndex) ∧ Unchanged [.receiver, .queue, .replyCount] s t) ∧
    (isPart ∨ isPanel ∧ panel.toNat ≤ 1 → n ≠ 0x02 → n ≠ 0x1A → n ≠ 0x1D →
      ∃ t, exec (.clearNotice panel tag source) s = .next t ∧
        Replied s t (statusReply .command panel tag .badCmd) ∧ Unchanged [.receiver, .queue, .replyCount] s t)

/-- A taken write to the Notice Priority Table sets the priority of its source at once, whatever panel it names; no
flag state or count changes but by the choice that a raise from 0 makes where a flag of the source is PENDING and the
unit is able. That this choice's NOTICE stands before the reply is the model's reading (R133, R168, R172; log 23). -/
def Obligations.PriorityWrite : Prop :=
  ∀ (s : State) (panel tag : Byte) (src : Source) (w : Word), w.toNat ≤ 3 →
    Taken (.writeEntry panel tag 0x06#8 (BitVec.ofNat 16 src.code) (wordBytes w)) s →
    let u := { s.hunting with notices := s.notices.setPrio src w.toNat }
    let chooses := s.notices.prio src = 0 ∧ w ≠ 0#16 ∧ s.notices.able = true ∧
      ∃ f : FlagId, f.source = src ∧ (s.flag f).state = .pending
    ∃ v t, exec (.writeEntry panel tag 0x06#8 (BitVec.ofNat 16 src.code) (wordBytes w)) s = .next t ∧
      (chooses → ChoiceMade u (.next v)) ∧ (¬ chooses → v = u) ∧
      t = { v with link := { v.link with queue := v.link.queue ++ [.reply (statusReply .writeEntry panel tag .ok)],
                                         replyCount := v.link.replyCount + 1 } } ∧
      u.notices.prio src = w.toNat ∧ (∀ src', src' ≠ src → u.notices.prio src' = s.notices.prio src') ∧
      ∀ f, u.flag f = s.flag f

/-! ### Frame markers and lines -/

/-- FRAME_OPEN that passes the reference check and finds room: an OPEN ticket is closed with UNCLOSED, the new ticket is the
newest waiting one, and a stretch without an outcome ends with TICKET and without its FREE request. FRAME_OPEN is discarded
with STRAY in DISABLED, and refused with TICKET_REFUSED where it is not ahead of the reference frame, and, after the closing
step, where two tickets wait (R4, R5, R37). -/
def Obligations.FrameOpen : Prop :=
  ∀ (s : State) (p : Panel) (f : Word), arrives (.frameOpen p f) s = true → TicketsOk (s.ingress p) →
    let g := s.ingress p
    let passes := ∀ r, referenceFrame g = some r → ahead f r = true
    ((s.seq p).run ≠ .disabled → passes → g.waiting.length < 2 →
      ∃ t, exec (.frameOpen p f) s = .next t ∧ t.link.rx = .hunt ∧
        t.ingress p = { g with
          scan := g.scan.map closedTicket, waiting := g.waiting.map closedTicket ++ [⟨f, .opened, 0⟩] } ∧
        ((∃ k ∈ g.tickets, k.state = .opened) →
          (t.flag (.panel .unclosed p)).count = min 255 ((s.flag (.panel .unclosed p)).count + 1)) ∧
        ((∀ k ∈ g.tickets, k.state ≠ .opened) →
          (t.flag (.panel .unclosed p)).count = (s.flag (.panel .unclosed p)).count) ∧
        ((s.seq p).run = .stretch → (s.seq p).outcome = .none →
          (t.seq p).outcome = .ticket ∧ (t.claim p).request = none ∧
          Unchanged [.ingress p, .receiver, .flags, .able, .queue, .arbiter, .seq .p0, .seq .p1, .claim .p0, .claim .p1,
            .touch .p0, .touch .p1] s t) ∧
        ((s.seq p).run ≠ .stretch ∨ (s.seq p).outcome ≠ .none →
          Unchanged [.ingress p, .receiver, .flags, .able, .queue] s t)) ∧
    ((s.seq p).run = .disabled → Raises (.panel .stray p) 0 s.hunting (exec (.frameOpen p f) s)) ∧
    ((s.seq p).run ≠ .disabled → ¬ passes → Raises (.panel .ticketRefused p) 0 s.hunting (exec (.frameOpen p f) s)) ∧
    ((s.seq p).run ≠ .disabled → passes → g.waiting.length = 2 → (∀ k ∈ g.tickets, k.state = .closed) →
      Raises (.panel .ticketRefused p) 0 s.hunting (exec (.frameOpen p f) s)) ∧
    ((s.seq p).run ≠ .disabled → passes → g.waiting.length = 2 → (∃ k ∈ g.tickets, k.state = .opened) →
      ∃ u, Raises (.panel .unclosed p) 0
          (s.hunting.setPanel p { s.panel p with ingress :=
            { g with scan := g.scan.map closedTicket, waiting := g.waiting.map closedTicket } }) (.next u) ∧
        Raises (.panel .ticketRefused p) 0 u (exec (.frameOpen p f) s))

/-- FRAME_CLOSE for the OPEN ticket's frame closes that ticket in its place, and changes nothing else; any other one
is discarded with STRAY (R6). -/
def Obligations.FrameClose : Prop :=
  ∀ (s : State) (p : Panel) (f : Word), arrives (.frameClose p f) s = true → TicketsOk (s.ingress p) →
    ((∃ k ∈ (s.ingress p).tickets, k.state = .opened ∧ k.frame = f) →
      ∃ t, exec (.frameClose p f) s = .next t ∧ t.link.rx = .hunt ∧
        t.ingress p = { s.ingress p with
          scan := (s.ingress p).scan.map fun k => if k.frame = f then closedTicket k else k
          waiting := (s.ingress p).waiting.map fun k => if k.frame = f then closedTicket k else k } ∧
        Unchanged [.ingress p, .receiver] s t) ∧
    ((∀ k ∈ (s.ingress p).tickets, k.state = .opened → k.frame ≠ f) →
      Raises (.panel .stray p) 0 s.hunting (exec (.frameClose p f) s))

/-- A LINE that passes the checks of R8 takes a free slot, joins the queue at its tail with its numbers and pixels, and
raises its ticket's lines accepted by 1; nothing else changes (R8, R9). -/
def Obligations.LineAccepted : Prop :=
  ∀ (s : State) (p : Panel) (f y : Word) (pxs : List Pixel), arrives (.line p f y pxs) s = true →
    TicketsOk (s.ingress p) →
    (s.seq p).run ≠ .disabled → pxs.length = (s.pd p).width → y.toNat < (s.pd p).activeLines →
    OpenFor (s.ingress p) f → ¬ LineLate (s.seq p) (s.ingress p) f y → LineInOrder (s.ingress p) f y →
    (s.ingress p).queue.length ≠ (s.pd p).quota →
    let count (k : Ticket) : Ticket := if k.frame = f then { k with accepted := k.accepted + 1 } else k
    ∃ t, exec (.line p f y pxs) s = .next t ∧ t.link.rx = .hunt ∧ t.freeSlots = s.freeSlots - 1 ∧
      t.ingress p = { s.ingress p with
        scan := (s.ingress p).scan.map count
        waiting := (s.ingress p).waiting.map count
        queue := (s.ingress p).queue ++ [⟨f, y.toNat, pxs⟩] } ∧
      Unchanged [.ingress p, .receiver, .freeSlots] s t

/-- A LINE that fails a check of R8 is discarded whole with the notice of the first check it fails (R8, R9). -/
def Obligations.LineRefused : Prop :=
  ∀ (s : State) (p : Panel) (f y : Word) (pxs : List Pixel), arrives (.line p f y pxs) s = true →
    TicketsOk (s.ingress p) →
    let q := s.seq p
    let g := s.ingress p
    let d := s.pd p
    let goodForm := pxs.length = d.width ∧ y.toNat < d.activeLines
    let answer := exec (.line p f y pxs) s
    (q.run = .disabled → Raises (.panel .stray p) 0 s.hunting answer) ∧
    (q.run ≠ .disabled → ¬ goodForm → Raises (.part .badParcel) 0 s.hunting answer) ∧
    (q.run ≠ .disabled → goodForm → ¬ OpenFor g f → Raises (.panel .stray p) 0 s.hunting answer) ∧
    (q.run ≠ .disabled → goodForm → OpenFor g f → LineLate q g f y → Raises (.panel .stray p) 0 s.hunting answer) ∧
    (q.run ≠ .disabled → goodForm → OpenFor g f → ¬ LineLate q g f y → ¬ LineInOrder g f y →
      Raises (.panel .stray p) 0 s.hunting answer) ∧
    (q.run ≠ .disabled → goodForm → OpenFor g f → ¬ LineLate q g f y → LineInOrder g f y →
      g.queue.length = d.quota → Raises (.panel .overrun p) 0 s.hunting answer)

/-- Resolution of line y: entries that precede it return to the free list; then the line is taken, to be driven in LIVE
and given back at once in SAFE, or it is missing and the missing count rises; with no scan frame the queue is untouched
(R10, R12, R13). -/
def Obligations.Resolution : Prop :=
  ∀ (s : State) (p : Panel) (y : Nat), (s.ingress p).driving = none →
    let g := s.ingress p
    let t := resolve p y s
    Unchanged [.ingress p, .freeSlots] s t ∧
    (g.scan = none → t.freeSlots = s.freeSlots ∧ t.ingress p = { g with missing := g.missing + 1 }) ∧
    ∀ (k : Ticket) (gone kept : List LineSlot), g.scan = some k → g.queue = gone ++ kept →
      (∀ e ∈ gone, ahead k.frame e.frame = true ∨ (e.frame = k.frame ∧ e.lineNo < y)) →
      (∀ e, kept.head? = some e → ¬ (ahead k.frame e.frame = true ∨ (e.frame = k.frame ∧ e.lineNo < y))) →
      ((∀ e, kept.head? = some e → ¬ (e.frame = k.frame ∧ e.lineNo = y)) →
        t.freeSlots = s.freeSlots + gone.length ∧
        t.ingress p = { g with queue := kept, missing := g.missing + 1 }) ∧
      ∀ e rest, kept = e :: rest → e.frame = k.frame → e.lineNo = y →
        ((s.sup p).mode = .live → t.freeSlots = s.freeSlots + gone.length ∧
          t.ingress p = { g with queue := rest, driving := some e }) ∧
        ((s.sup p).mode = .safe → t.freeSlots = s.freeSlots + gone.length + 1 ∧
          t.ingress p = { g with queue := rest })

/-! ### Management requests -/

/-- A taken write to a panel table: the staged entry reads back as the words written, every other entry and the active
copy stay, and the reply is OK (R126, R130, R134). -/
def Obligations.WriteIsStaged : Prop :=
  ∀ (s : State) (p : Panel) (tag table : Byte) (index : Word) (payload : List Byte) (id : TableId) (e : Entry),
    Taken (.writeEntry (panelByte p) tag table index payload) s →
    TableId.ofCode table = some id → id.isPanelTable = true → index.toNat < id.size →
    decodeEntry id (bytesWords payload) = some e → (s.mgmt p).commitPending = false →
    (∀ d, e = .descriptor d → (s.mgmt p).supLock = true → sameSupervision d (s.pd p) = true) →
    (∀ r r', e = .region r → (s.tables p).regions[index.toNat]? = some r' → r'.locked = false) →
    ∃ t, exec (.writeEntry (panelByte p) tag table index payload) s = .next t ∧
      (t.mgmt p).staged.entryWords id index.toNat = some (bytesWords payload) ∧
      (∀ id' j, (id', j) ≠ (id, index.toNat) →
        (t.mgmt p).staged.entryWords id' j = (s.mgmt p).staged.entryWords id' j) ∧
      (t.mgmt p).active = (s.mgmt p).active ∧ (t.mgmt p).commitPending = false ∧
      (t.mgmt p).committed = (s.mgmt p).committed ∧ (t.mgmt p).supLock = (s.mgmt p).supLock ∧
      Replied s t (statusReply .writeEntry (panelByte p) tag .ok) ∧
      Unchanged [.mgmt p, .receiver, .queue, .replyCount] s t

/-- A refused write stores nothing and is answered with the status of the first check it fails, in the order BAD_TABLE,
BAD_INDEX, BAD_VALUE, PENDING, LOCKED (R130, R132). -/
def Obligations.WriteRefused : Prop :=
  ∀ (s : State) (panel tag table : Byte) (index : Word) (payload : List Byte),
    Taken (.writeEntry panel tag table index payload) s →
    let refused (st : Status) : Prop :=
      ∃ t, exec (.writeEntry panel tag table index payload) s = .next t ∧
        Replied s t (statusReply .writeEntry panel tag st) ∧ Unchanged [.receiver, .queue, .replyCount] s t
    (table = 0#8 ∨ 6 < table.toNat → refused .badTable) ∧
    (table = 6#8 → Source.ofCode index.toNat = none → refused .badIndex) ∧
    (table = 6#8 → Source.ofCode index.toNat ≠ none → 3 < (wordAt (bytesWords payload) 0).toNat → refused .badValue) ∧
    ∀ id, TableId.ofCode table = some id → id.isPanelTable = true →
      (1 < panel.toNat ∨ id.size ≤ index.toNat → refused .badIndex) ∧
      ∀ p, panel = panelByte p → index.toNat < id.size →
        (decodeEntry id (bytesWords payload) = none → refused .badValue) ∧
        ∀ e, decodeEntry id (bytesWords payload) = some e →
          ((s.mgmt p).commitPending = true → refused .pending) ∧
          ((s.mgmt p).commitPending = false →
            (∃ r r', e = .region r ∧ (s.tables p).regions[index.toNat]? = some r' ∧ r'.locked = true) ∨
            (∃ d, e = .descriptor d ∧ (s.mgmt p).supLock = true ∧
              ¬ (d.tolerance = (s.pd p).tolerance ∧ d.staleLimit = (s.pd p).staleLimit ∧
                 d.policy = (s.pd p).policy ∧ d.fill = (s.pd p).fill)) →
            refused .locked)

/-- READ_ENTRY changes nothing but the queue, the reply count and the receiver. An OK reply carries the entry of that
moment: a staged entry as its words; an active one as its words, with the front state after a region's; the Panel
Status, Pool Status, Cell State, Notice Table and priority values. What stands in a ticket's words where there is none but the
presence and the number, and in which place a lone waiting ticket stands, is the model's choice (log 34). It is refused with
BAD_TABLE for no table of R126, and with BAD_INDEX for a panel that is used and not 0 or 1, or an index outside the table (R128,
R134, R162, R163; log 34). -/
def Obligations.ReadReturnsTheEntry : Prop :=
  (∀ (s : State) (p : Panel) (panel tag table copy : Byte) (index : Word) (id : TableId) (words : List Word),
    Taken (.readEntry panel tag table copy index) s → TableId.ofCode table = some id →
    panel = panelByte p ∨ id = .poolStatus ∨ id = .noticePriority ∨ (id = .noticeTable ∧ index.toNat ≤ 0x04) →
    (id.isPanelTable = true → copy.getLsbD 0 = true →
      (s.mgmt p).staged.entryWords id index.toNat = some words) →
    (id.isPanelTable = true → copy.getLsbD 0 = false → ∃ ws, (s.tables p).entryWords id index.toNat = some ws ∧
      words = if id = .regionTable then
          ws ++ ((s.composer p).regions[index.toNat]?.map fun st => if st.front = .valid then (1 : Word) else 0).toList
        else ws) →
    (id = .panelStatus → index = 0#16 ∧
      let q := s.seq p
      let g := s.ingress p
      let yes (b : Bool) : Word := if b then 1 else 0
      let frame (f : Option Word) : List Word := match f with | none => [0, 0] | some n => [1, n]
      let ticket (k : Option Ticket) : List Word := match k with
        | none => [0, 0, 0, 0]
        | some k => [1, k.frame, if k.state = .opened then 0 else 1, natWord k.accepted]
      words =
        [(match q.run with | .disabled => 0 | .syncing => 1 | .running => 2 | .stretch => 3),
         (match q.segment with | none => 0xFFFF#16 | some i => natWord i),
         (match q.phase with | .none => 0 | .request => 1 | .switch => 2 | .setup => 3 | .burst => 4 | .hold => 5),
         natWord q.linePos, natWord q.stretchCount, yes q.locked] ++
        frame (g.scan.map Ticket.frame) ++ frame g.lastScan ++
        ticket g.scan ++ ticket g.waiting[0]? ++ ticket g.waiting[1]? ++
        [natWord g.queue.length, natWord (g.driving.toList.length + g.lastHost.toList.length), natWord g.missing,
         (if (s.sup p).mode = .live then 0 else 1), natWord (s.sup p).stale, yes (s.mgmt p).supLock,
         (match (s.claim p).request with | none => 0 | some r => if r.cls = .timeline then 1 else 2),
         (match (s.claim p).request with | none => 0xFFFF#16 | some r => natWord r.need),
         (if s.arb.a.holder = some p then 1 else 0) + (if s.arb.b.holder = some p then 2 else 0),
         (match s.arb.reservation with | none => 0 | some v => if v.panel = p then 1 else 0),
         natWord (s.touch p).cursor, (s.touch p).cycle, natWord (s.touch p).hop,
         yes (s.mgmt p).commitPending, yes (s.mgmt p).committed]) →
    (id = .poolStatus → index = 0#16 ∧ words =
      [natWord s.freeSlots, natWord (s.ingress .p0).queue.length, natWord (s.ingress .p1).queue.length,
       natWord (s.ingress .p0).held, natWord (s.ingress .p1).held]) →
    (id = .cellState → ∃ col row, index.toNat = row * (s.pd p).columns + col ∧ col < (s.pd p).columns ∧
      row < (s.pd p).rows ∧ words =
        [((s.touch p).cell col row).raw, ((s.touch p).cell col row).baseline,
         if ((s.touch p).cell col row).contact then 1 else 0]) →
    (id = .noticeTable → ∃ src, index.toNat = src.code ∧ words =
      [(s.flag (src.flagFor p)).state.word, natWord (s.flag (src.flagFor p)).count, natWord (s.notices.prio src)]) →
    (id = .noticePriority → ∃ src : Source, index.toNat = src.code ∧ words = [natWord (s.notices.prio src)]) →
    ∃ t, exec (.readEntry panel tag table copy index) s = .next t ∧
      Replied s t { statusReply .readEntry panel tag .ok with entry := words } ∧
      Unchanged [.receiver, .queue, .replyCount] s t) ∧
  ∀ (s : State) (panel tag table copy : Byte) (index : Word), Taken (.readEntry panel tag table copy index) s →
    let refused (st : Status) : Prop :=
      ∃ t, exec (.readEntry panel tag table copy index) s = .next t ∧
        Replied s t (statusReply .readEntry panel tag st) ∧ Unchanged [.receiver, .queue, .replyCount] s t
    (table = 0#8 ∨ 10 < table.toNat → refused .badTable) ∧
    ∀ id, TableId.ofCode table = some id →
      (id.isPanelTable = true → 1 < panel.toNat ∨ id.size ≤ index.toNat → refused .badIndex) ∧
      (id = .panelStatus → 1 < panel.toNat ∨ index ≠ 0#16 → refused .badIndex) ∧
      (id = .poolStatus → index ≠ 0#16 → refused .badIndex) ∧
      (id = .cellState → 1 < panel.toNat ∨
        (∃ p, panel = panelByte p ∧ (s.pd p).columns * (s.pd p).rows ≤ index.toNat) → refused .badIndex) ∧
      (id = .noticeTable ∨ id = .noticePriority → (∀ src : Source, index.toNat ≠ src.code) → refused .badIndex) ∧
      (id = .noticeTable → 1 < panel.toNat → (∃ src, index.toNat = (Source.panel src).code) → refused .badIndex)

/-- A command that uses its panel operand is refused with BAD_INDEX where it is not 0 or 1, and an unknown command with
BAD_CMD; nothing else changes (R136). -/
def Obligations.CommandOperandsAreChecked : Prop :=
  (∀ (s : State) (panel tag : Byte) (c : Instr), 1 < panel.toNat → Taken c s →
    c ∈ [Instr.commit panel tag, .startPanel panel tag, .stopPanel panel tag, .restartPanel panel tag,
         .lockSupervision panel tag, .resetBaseline panel tag] →
    ∃ t, exec c s = .next t ∧ Replied s t (statusReply .command panel tag .badIndex) ∧
      Unchanged [.receiver, .queue, .replyCount] s t) ∧
  ∀ (s : State) (panel tag code : Byte), Taken (.unknownCommand panel tag code) s →
    ∃ t, exec (.unknownCommand panel tag code) s = .next t ∧
      Replied s t (statusReply .command panel tag .badCmd) ∧ Unchanged [.receiver, .queue, .replyCount] s t

/-- A COMMIT that passes the checks is applied at once in DISABLED and SYNCING, with disposition APPLIED and no
COMMIT_DONE: each block acts on its own state as at every application of a commit, and a change of width or line period retunes
the synthesizer. In RUNNING and STRETCH it becomes pending, with disposition PENDING, and nothing else of the part changes
(R44, R142, R144, R145; log 23). -/
def Obligations.CommitTaken : Prop :=
  ∀ (s : State) (p : Panel) (tag : Byte), Taken (.commit (panelByte p) tag) s → RangesOk s →
    (s.mgmt p).commitPending = false → SelfValid (s.mgmt p).staged →
    (∀ u ∈ (s.mgmt p.other).inForceOrPending, Together (s.mgmt p).staged u) →
    let reply (d : Disposition) : ReplyParcel := { statusReply .command (panelByte p) tag .ok with disposition := d }
    let v := applyCommit p s
    ((s.seq p).run = .disabled ∨ (s.seq p).run = .syncing →
      ∃ t, exec (.commit (panelByte p) tag) s = .next t ∧
        t.mgmt p = { s.mgmt p with active := (s.mgmt p).staged, commitPending := false, committed := true } ∧
        t.seq p = retuned (s.pd p) (s.mgmt p).staged.pd (s.seq p) ∧
        t.ingress p = v.ingress p ∧ t.freeSlots = v.freeSlots ∧ t.composer p = v.composer p ∧ t.store = v.store ∧
        t.touch p = v.touch p ∧
        (t.flag (.panel .overrun p)).count = (v.flag (.panel .overrun p)).count ∧
        (t.flag (.panel .commitDone p)).count = (s.flag (.panel .commitDone p)).count ∧
        Replied s t (reply .applied) ∧
        Unchanged [.mgmt p, .seq p, .ingress p, .composer p, .touch p, .store, .freeSlots, .flags, .able, .receiver,
          .queue, .replyCount] s t) ∧
    ((s.seq p).run = .running ∨ (s.seq p).run = .stretch →
      ∃ t, exec (.commit (panelByte p) tag) s = .next t ∧ t.mgmt p = { s.mgmt p with commitPending := true } ∧
        Replied s t (reply .pending) ∧ Unchanged [.mgmt p, .receiver, .queue, .replyCount] s t)

/-- A COMMIT is refused with PENDING while one is pending. Validation passes exactly the sets that are valid in
themselves and go together with every set of the other panel in force or pending. Otherwise the first of the seven checks that
fails, in their order, gives the status, the detail table and the detail index, the lowest index of an entry that breaks it;
nothing is applied. The index of check 1 and the tables named by checks on a whole table are the model's reading (log 15) (R21,
R22, R50, R51, R106, R123, R142, R143; log 15). -/
def Obligations.CommitRefused : Prop :=
  ∀ (s : State) (p : Panel) (tag : Byte), Taken (.commit (panelByte p) tag) s → RangesOk s →
    let t := (s.mgmt p).staged
    let others := (s.mgmt p.other).inForceOrPending
    let refused (st : Status) (table : Byte) (index : Option Nat) : Prop :=
      ∃ u, exec (.commit (panelByte p) tag) s = .next u ∧
        Replied s u { statusReply .command (panelByte p) tag st with detailTable := table, detailIndex := index } ∧
        Unchanged [.receiver, .queue, .replyCount] s u
    let lowest (breaks : Nat → Prop) (i : Nat) : Prop := breaks i ∧ ∀ j < i, ¬ breaks j
    let breaks3 (i : Nat) : Prop := ∃ r, t.regions[i]? = some r ∧ r.valid = true ∧ ¬ RegionFits t.pd r
    let breaks4 (i : Nat) : Prop := ∃ r k, t.regions[i]? = some r ∧ r.UsesBlock k ∧
      ((∃ j r', j ≠ i ∧ t.regions[j]? = some r' ∧ r'.UsesBlock k) ∨
       ∃ u ∈ others, ∃ r' ∈ u.regions.toList, r'.UsesBlock k)
    let breaks5 (i : Nat) : Prop := ∃ g, t.groupList[i]? = some g ∧
      (¬ GroupFits t.pd g ∨ ∃ j g', j ≠ i ∧ t.groupList[j]? = some g' ∧ ∃ c ∈ g.cells, c ∈ g'.cells)
    let pass2 := DescriptorFits t.pd ∧ TimelineFits t
    let pass4 := pass2 ∧ (∀ i, ¬ breaks3 i) ∧ ∀ i, ¬ breaks4 i
    let pass5 := pass4 ∧ ∀ i, ¬ breaks5 i
    let quotas := ∀ u ∈ others, t.pd.quota + u.pd.quota ≤ 92
    ((s.mgmt p).commitPending = true → refused .pending 0 none) ∧
    (validate t (s.mgmt p.other) = none ↔ SelfValid t ∧ ∀ u ∈ others, Together t u) ∧
    ((s.mgmt p).commitPending = false →
      (¬ DescriptorFits t.pd → refused .badValue 0x01 (some 0)) ∧
      (DescriptorFits t.pd → ¬ TimelineFits t → refused .badTimeline 0x02 none) ∧
      (pass2 → ∀ i, lowest breaks3 i → refused .badCombo 0x03 (some i)) ∧
      (pass2 → (∀ i, ¬ breaks3 i) → ∀ i, lowest breaks4 i → refused .overlap 0x03 (some i)) ∧
      (pass4 → ∀ i, lowest breaks5 i → refused .overlap 0x04 (some i)) ∧
      (pass5 → ¬ quotas → refused .noSpace 0x01 none) ∧
      (pass5 → quotas → t.hops[0] = none → refused .badValue 0x05 none))

/-- What the application of a commit does to a panel's Ingress state: a change of width or active lines empties it but
for the missing count; otherwise entries leave the queue from its tail until its length is at most the new quota, each
with its slot freed, its ticket's lines accepted lowered by 1 and one OVERRUN (R15, R16, R145). -/
def Obligations.CommitActsOnTheIngressState : Prop :=
  ∀ (s : State) (p : Panel), (s.flag (.panel .overrun p)).count ≤ 255 →
    let old := (s.mgmt p).active.pd
    let new := (s.mgmt p).staged.pd
    let g := s.ingress p
    let t := applyCommit p s
    let gone := g.queue.drop new.quota
    let lower (k : Ticket) : Ticket :=
      { k with accepted := k.accepted - gone.countP fun e => decide (e.frame = k.frame) }
    (old.width ≠ new.width ∨ old.activeLines ≠ new.activeLines →
      t.ingress p = ⟨none, [], none, [], none, none, g.missing⟩ ∧
      t.freeSlots = s.freeSlots + (g.queue.length + g.held) ∧
      (t.flag (.panel .overrun p)).count = (s.flag (.panel .overrun p)).count) ∧
    (old.width = new.width → old.activeLines = new.activeLines →
      t.ingress p =
        { g with scan := g.scan.map lower, waiting := g.waiting.map lower, queue := g.queue.take new.quota } ∧
      t.freeSlots = s.freeSlots + gone.length ∧
      (t.flag (.panel .overrun p)).count = min 255 ((s.flag (.panel .overrun p)).count + gone.length))

/-- What the application of a commit does to a panel's Touch Processor: a change of the groups or the matrix restarts
the cycle and clears contacts, a change of the matrix clears every record, a change of the Hop Table restarts the hops. That a
commit which restarts the cycle keeps the cycle noise maximum and frames spanned is the model's choice (log 37) (R123, R124,
R145; log 37). -/
def Obligations.CommitActsOnTheTouchProcessor : Prop :=
  ∀ (s : State) (p : Panel), Sparse.wf Cell.reset (s.touch p).cells = true →
    let old := (s.mgmt p).active
    let new := (s.mgmt p).staged
    let x := s.touch p
    let t := (applyCommit p s).touch p
    let matrix := old.pd.columns ≠ new.pd.columns ∨ old.pd.rows ≠ new.pd.rows
    let scan := old.groupList ≠ new.groupList ∨ matrix
    (∀ col row, t.cell col row =
      if matrix then ⟨0, 0, false⟩ else if scan then { x.cell col row with contact := false } else x.cell col row) ∧
    (scan → t.cursor = 0 ∧ t.cycleOpen = false ∧ t.cycle = x.cycle + 1 ∧ t.reseed = true) ∧
    (¬ scan → t.cursor = x.cursor ∧ t.cycleOpen = x.cycleOpen ∧ t.cycle = x.cycle ∧ t.reseed = x.reseed) ∧
    (old.hops ≠ new.hops → t.hop = 0 ∧ t.hopPending = false ∧ t.noisy = 0) ∧
    (old.hops = new.hops → t.hop = x.hop ∧ t.hopPending = x.hopPending ∧ t.noisy = x.noisy) ∧
    t.lastHad = x.lastHad ∧ t.noiseMax = x.noiseMax ∧ t.spanned = x.spanned

/-- What the application of a commit does to a region's images: they are lost where the region is made invalid, moved,
reshaped, given other blocks or made window, or is new, and kept otherwise; a region that becomes fixed has its front
side FIRST. A front image on the second side of a region that becomes fixed is copied, byte for byte, into the first blocks, and
every other byte of the store stays; so a region that keeps its images shows the same pixels after it (R52, R63, R64). -/
def Obligations.CommitActsOnTheRegions : Prop :=
  let loses (old new : Region) : Prop := old.valid = true ∧ new.valid = false ∨ old.valid = false ∧ new.valid = true ∨
    new.valid = true ∧ (¬ (old.x0 = new.x0 ∧ old.y0 = new.y0 ∧ old.x1 = new.x1 ∧ old.y1 = new.y1) ∨
      old.firstBlock ≠ new.firstBlock ∨ new.mode = .window)
  let fixes (old new : Region) : Prop :=
    old.valid = true ∧ new.valid = true ∧ old.capture = true ∧ new.mode = .fixed ∧ ¬ loses old new
  ∀ (s : State) (p : Panel),
    let t := applyCommit p s
    let entry (i : Nat) (old new : Region) (st : RegionState) : Prop := (s.mgmt p).active.regions[i]? = some old ∧
      (s.mgmt p).staged.regions[i]? = some new ∧ (s.composer p).regions[i]? = some st
    (∀ i old new st, entry i old new st → ∃ st', (t.composer p).regions[i]? = some st' ∧
      (loses old new → st'.front = .empty ∧ st'.side = .first ∧ st'.mask = []) ∧
      (fixes old new → st'.front = st.front ∧ st'.side = .first) ∧
      (¬ loses old new → ¬ fixes old new → st'.front = st.front ∧ st'.side = st.side ∧ st'.mask = st.mask)) ∧
    (StoresOk s → MgmtOk s → ImagesOk s →
      (∀ i old new st, entry i old new st → fixes old new → st.side = .second →
        ∀ k < new.imageBlocks * blockBytes,
          t.store.read (frontBlock new .first * blockBytes + k) = s.store.read (frontBlock old .second * blockBytes + k)) ∧
      (∀ a, (∀ i old new st, entry i old new st → fixes old new → st.side = .second →
          ¬ (frontBlock new .first * blockBytes ≤ a ∧ a < (frontBlock new .first + new.imageBlocks) * blockBytes)) →
        t.store.read a = s.store.read a) ∧
      ∀ i old new st st', entry i old new st → (t.composer p).regions[i]? = some st' → old.valid = true →
        old.mode ≠ .window → ¬ loses old new → ∀ x y, x < old.width → y < old.height →
          t.store.readPixel (imageAddr new (frontBlock new st'.side) x y) =
            s.store.readPixel (imageAddr old (frontBlock old st.side) x y))

/-- START_PANEL: refused with STATE where the panel is not DISABLED or has no applied commit; otherwise SYNCING, UNLOCKED,
the synthesizer restarted toward the active width and line period. That it remembers nothing of an acquisition it cuts short is
the model's choice (log 35) (R24, R44, R137; log 35). -/
def Obligations.StartPanel : Prop :=
  ∀ (s : State) (p : Panel) (tag : Byte), Taken (.startPanel (panelByte p) tag) s →
    ∃ t, exec (.startPanel (panelByte p) tag) s = .next t ∧
      ((s.seq p).run ≠ .disabled ∨ (s.mgmt p).committed = false →
        Replied s t (statusReply .command (panelByte p) tag .state) ∧
        Unchanged [.receiver, .queue, .replyCount] s t) ∧
      ((s.seq p).run = .disabled → (s.mgmt p).committed = true →
        t.seq p = { s.seq p with
          run := .syncing, segment := none, linesDriven := 0, linePos := 0, frameEnd := false, locked := false,
          synthWidth := (s.pd p).width, synthPeriod := (s.pd p).linePeriod } ∧
        Replied s t (statusReply .command (panelByte p) tag .ok) ∧
        Unchanged [.seq p, .receiver, .queue, .replyCount] s t)

/-- STOP_PANEL: refused with LOCKED under the supervision lock; otherwise a pending commit is applied with COMMIT_DONE, and
the panel is DISABLED with its lock state and its synthesizer kept, its frame dropped without a judgement, its content mode
LIVE with stale count 0, and its other blocks emptied; the Retained Store is as the commit left it; the halves it held have it
as last user, and the other panel keeps all but what a grant to its waiting request changes (R17, R25, R58, R68, R79, R99,
R101, R125, R138; logs 12 and 32). -/
def Obligations.StopPanel : Prop :=
  ∀ (s : State) (p : Panel) (tag : Byte), Taken (.stopPanel (panelByte p) tag) s →
    StoresOk s → MgmtOk s → (∀ q, RunOk (s.panel q)) → SenseOk s →
    ∃ t, exec (.stopPanel (panelByte p) tag) s = .next t ∧
      ((s.mgmt p).supLock = true → Replied s t (statusReply .command (panelByte p) tag .locked) ∧
        Unchanged [.receiver, .queue, .replyCount] s t) ∧
      ((s.mgmt p).supLock = false →
        (t.seq p).run = .disabled ∧ (t.seq p).locked = (s.seq p).locked ∧ SequencerCleared (t.seq p) ∧
        (t.seq p).synthWidth = ((afterPending p s).seq p).synthWidth ∧
        (t.seq p).synthPeriod = ((afterPending p s).seq p).synthPeriod ∧
        (t.seq p).cutShort = false ∧ t.sup p = ⟨0, .live, .live⟩ ∧ Emptied (afterPending p s) t p ∧
        t.store = (afterPending p s).store ∧
        Counted (.panel .commitDone p) (s.mgmt p).commitPending s t ∧
        t.mgmt p = (afterPending p s).mgmt p ∧ LastUsersOf s t p ∧ StillHolds s t p.other ∧ OtherKept p.other s t ∧
        Replied s t (statusReply .command (panelByte p) tag .ok) ∧
        Unchanged [.mgmt p, .sup p, .ingress p, .composer p, .freeSlots, .store, .arbiter, .seq .p0, .seq .p1,
          .claim .p0, .claim .p1, .touch .p0, .touch .p1, .flags, .able, .receiver, .queue, .replyCount] s t)

/-- RESTART_PANEL: refused with STATE in DISABLED; otherwise a pending commit is applied with COMMIT_DONE, a frame in progress
before its frame end is judged bad, and the panel is SYNCING and UNLOCKED toward the active geometry, its other blocks emptied
and its content mode kept; the Retained Store is as the commit left it; a restart in SYNCING is remembered as one that cut an
acquisition short (log 32); the halves it held have it as last user, and the other panel keeps all but what a grant to its
waiting request changes (R17, R26, R34, R44, R58, R68, R72, R74, R78, R99, R101, R125, R139; logs 12 and 32). -/
def Obligations.RestartPanel : Prop :=
  ∀ (s : State) (p : Panel) (tag : Byte), Taken (.restartPanel (panelByte p) tag) s →
    StoresOk s → MgmtOk s → (∀ q, RunOk (s.panel q)) → SenseOk s →
    ∃ t, exec (.restartPanel (panelByte p) tag) s = .next t ∧
      ((s.seq p).run = .disabled → Replied s t (statusReply .command (panelByte p) tag .state) ∧
        Unchanged [.receiver, .queue, .replyCount] s t) ∧
      ((s.seq p).run ≠ .disabled →
        (t.seq p).run = .syncing ∧ (t.seq p).locked = false ∧ SequencerCleared (t.seq p) ∧
        (t.seq p).synthWidth = (t.pd p).width ∧ (t.seq p).synthPeriod = (t.pd p).linePeriod ∧
        (t.seq p).cutShort = decide ((s.seq p).run = .syncing) ∧
        Counted (.panel .commitDone p) (s.mgmt p).commitPending s t ∧
        ((s.seq p).run = .running → (s.seq p).frameEnd = false → t.sup p = judgedBad (t.pd p).staleLimit (s.sup p)) ∧
        ((s.seq p).run ≠ .running ∨ (s.seq p).frameEnd = true → t.sup p = s.sup p) ∧
        Emptied (afterPending p s) t p ∧ t.store = (afterPending p s).store ∧
        t.mgmt p = (afterPending p s).mgmt p ∧ LastUsersOf s t p ∧ StillHolds s t p.other ∧
        OtherKept p.other s t ∧ Replied s t (statusReply .command (panelByte p) tag .ok) ∧
        Unchanged [.mgmt p, .sup p, .ingress p, .composer p, .freeSlots, .store, .arbiter, .seq .p0, .seq .p1,
          .claim .p0, .claim .p1, .touch .p0, .touch .p1, .flags, .able, .receiver, .queue, .replyCount] s t)

/-- LOCK_SUPERVISION: refused with PENDING while a commit is pending; otherwise the lock is set and the four staged
supervision fields take the active values, and no other staged field changes (R80). -/
def Obligations.LockSupervision : Prop :=
  ∀ (s : State) (p : Panel) (tag : Byte), Taken (.lockSupervision (panelByte p) tag) s →
    ∃ t, exec (.lockSupervision (panelByte p) tag) s = .next t ∧
      ((s.mgmt p).commitPending = true → Replied s t (statusReply .command (panelByte p) tag .pending) ∧
        Unchanged [.receiver, .queue, .replyCount] s t) ∧
      ((s.mgmt p).commitPending = false →
        t.mgmt p = { s.mgmt p with
          supLock := true
          staged := { (s.mgmt p).staged with pd := { (s.mgmt p).staged.pd with
            tolerance := (s.pd p).tolerance, staleLimit := (s.pd p).staleLimit, policy := (s.pd p).policy,
            fill := (s.pd p).fill } } } ∧
        Replied s t (statusReply .command (panelByte p) tag .ok) ∧
        Unchanged [.mgmt p, .receiver, .queue, .replyCount] s t)

/-- RESET_BASELINE sets the panel's reseed flag in every panel state, pending or locked, and changes nothing else (R117,
R141). -/
def Obligations.ResetBaseline : Prop :=
  ∀ (s : State) (p : Panel) (tag : Byte), Taken (.resetBaseline (panelByte p) tag) s →
    ∃ t, exec (.resetBaseline (panelByte p) tag) s = .next t ∧ t.touch p = { s.touch p with reseed := true } ∧
      Replied s t (statusReply .command (panelByte p) tag .ok) ∧
      Unchanged [.touch p, .receiver, .queue, .replyCount] s t

/-- RESET_PART: refused with LOCKED under a supervision lock or a locked active region of either panel; otherwise every block
but the head link takes its reset values (with the model's own of logs 12, 28 and 32), unsent parcels but REPLYs leave the
queue, and the OK reply comes last (R147, R148, R171; logs 12, 17, 28 and 32). -/
def Obligations.ResetPart : Prop :=
  ∀ (s : State) (panel tag : Byte), Taken (.resetPart panel tag) s → LinkOk s →
    let forbidden := ∃ p, (s.mgmt p).supLock = true ∨ ∃ r ∈ (s.tables p).regions.toList, r.locked = true
    ∃ t, exec (.resetPart panel tag) s = .next t ∧
      (forbidden → Replied s t (statusReply .command panel tag .locked) ∧
        Unchanged [.receiver, .queue, .replyCount] s t) ∧
      (¬ forbidden →
        (∀ p, t.panel p = PanelState.reset p) ∧ t.freeSlots = 96 ∧ t.store = [] ∧ t.arb = Arbiter.reset ∧
        (∀ f, t.flag f = ⟨.clear, 0, 0, false⟩) ∧ (∀ src, t.notices.prio src = State.reset.notices.prio src) ∧
        (t.notices.able = true ↔ s.link.sending = none ∨ ∀ n, s.link.queue.head? ≠ some (.notice n)) ∧
        (∃ sent, t.link.queue = sent ++ s.link.unsent.filter OutParcel.isReply ++
            [.reply (statusReply .command panel tag .ok)] ∧
          sent.length = (if s.link.sending = none then 0 else 1) ∧
          ∀ x ∈ sent, ∃ y, s.link.queue.head? = some y ∧
            x = (match y with | .notice n => .notice { n with orphan := true } | other => other)) ∧
        t.link.replyCount = s.link.replyCount + 1 ∧ t.link.sending = s.link.sending ∧
        t.link.state = s.link.state ∧ t.link.rx = .hunt ∧
        Unchanged [.flags, .priorities, .able, .freeSlots, .store, .arbiter, .mgmt .p0, .mgmt .p1, .seq .p0, .seq .p1,
          .ingress .p0, .ingress .p1, .composer .p0, .composer .p1, .sup .p0, .sup .p1, .claim .p0, .claim .p1,
          .touch .p0, .touch .p1, .receiver, .queue, .replyCount] s t)

/-! ### The port clock and the timeline -/

/-- ACQUIRE_EDGE: in DISABLED the lock state alone changes; in SYNCING the panel is LOCKED, LOCK_ACQUIRED follows the edge
select, and a frame start takes place. The first edge after a restart in SYNCING either has no effect, being that of the
acquisition the restart cut short, or is taken as any other; which of the two is free (log 32). The first edge after
START_PANEL is taken as any other, which is the model's choice (log 35) (R26, R35, R45, R46; logs 19, 32 and 35). -/
def Obligations.AcquireEdge : Prop :=
  ∀ (s : State) (p : Panel), s.resetPin = false → (s.seq p).locked = false →
    ((s.seq p).run = .disabled → exec (.acquireEdge p) s =
      .next (s.setPanel p { s.panel p with seq := { s.seq p with locked := true } })) ∧
    ((s.seq p).cutShort = false → (s.seq p).run = .syncing → MgmtOk s → ∃ b t, exec (.acquireEdge p) s = .next t ∧
      b.seq p = { s.seq p with locked := true } ∧ Unchanged [.seq p, .flags, .able, .queue] s b ∧
      Counted (.panel .lockAcquired p)
        (decide ((s.pd p).edgeSelect = .acquire ∨ (s.pd p).edgeSelect = .both)) s b ∧
      FrameStarted b t p ∧ (t.seq p).locked = true ∧
      (t.flag (.panel .lockAcquired p)).count = (b.flag (.panel .lockAcquired p)).count) ∧
    ((s.seq p).cutShort = true → (s.seq p).run = .syncing →
      let c : State := { s.setPanel p { s.panel p with seq := { s.seq p with cutShort := false } } with
        openOrders := s.openOrders + 1 }
      exec (.acquireEdge p) s = .next c ∨ exec (.acquireEdge p) s = exec (.acquireEdge p) c)

/-- LOSS_EDGE: in DISABLED the lock state alone changes; in RUNNING and STRETCH the panel goes to SYNCING, LOCK_LOST follows
the edge select, a frame before its frame end is judged bad and its masks and accumulators go, the held slots are freed with
tickets, queue and line position kept, and the panel's request or window ends, its halves released with last user the panel
(R18, R34, R45, R47, R58, R72, R74, R78, R99, R101; log 14). -/
def Obligations.LossEdge : Prop :=
  ∀ (s : State) (p : Panel), s.resetPin = false → (s.seq p).locked = true →
    ((s.seq p).run = .disabled → exec (.lossEdge p) s =
      .next (s.setPanel p { s.panel p with seq := { s.seq p with locked := false } })) ∧
    ((s.seq p).run = .running ∨ (s.seq p).run = .stretch → SenseOk s →
      let abandons := (s.seq p).run = .running ∧ (s.seq p).frameEnd = false
      ∃ t, exec (.lossEdge p) s = .next t ∧
        t.seq p = { s.seq p with
          run := .syncing, locked := false, segment := none, phase := .none, frameEnd := false, outcome := .none,
          deferred := false } ∧
        t.ingress p = { s.ingress p with driving := none, lastHost := none } ∧
        t.freeSlots = s.freeSlots + (s.ingress p).held ∧
        (abandons → t.sup p = judgedBad (s.pd p).staleLimit (s.sup p) ∧
          ∀ i : Fin 16, (t.composer p).regions[i] = { (s.composer p).regions[i] with mask := [], acc := none }) ∧
        (¬ abandons → t.sup p = s.sup p ∧ (t.composer p).regions = (s.composer p).regions) ∧
        t.claim p = ⟨none, none⟩ ∧
        t.arb.a.holder ≠ some p ∧ t.arb.b.holder ≠ some p ∧ LastUsersOf s t p ∧ StillHolds s t p.other ∧
        t.touch p = s.touch p ∧
        Counted (.panel .lockLost p) (decide ((s.pd p).edgeSelect = .loss ∨ (s.pd p).edgeSelect = .both)) s t ∧
        Counted (.panel .senseSkipped p) false s t ∧
        OtherKept p.other s t ∧
        Unchanged (.sup p :: .ingress p :: .composer p :: .freeSlots :: grantParts) s t)

/-- DRIVE_SLOT_END: the counts of the sequencer, the line driven as the last host line, PRESTART, MARK or CAPTURE_LOST, and at
the last active line the frame end with LINE_MISS and the judgement; the Composer captures the row and folds it into the
region checks, and at frame end exchanges the images and leaves the accumulators (the model's reading, log 21); then the next
line's drive slot begins, or the segment ends (R12, R13, R28, R33, R41, R42, R56, R57, R59, R71, R73, R74; logs 7 and 21). -/
def Obligations.DriveSlotEnd : Prop :=
  ∀ (s : State) (p : Panel) (i : Nat) (e : Segment), (s.seq p).run = .running → (s.seq p).segment = some i →
    (s.tables p).segments[i]? = some e → e.kind = .drive →
    let q := s.seq p
    let d := s.pd p
    let v := s.sup p
    let g := s.ingress p
    let y := q.linePos
    let last := decide (y + 1 = d.activeLines)
    let prestart := decide (q.prestartDone = false ∧ d.prestartLead ≠ 0 ∧ q.linesLeft - 1 ≤ d.prestartLead)
    let mark := decide (q.markDone = false ∧ d.marker = some y)
    let taken := decide (d.binding = .notice) ||
      decide (s.link.state = .up ∧ s.link.queue.countP OutParcel.isCapture < 8)
    let bad := decide (g.scan = none ∨ d.tolerance < g.missing)
    let folded := foldChecks p y (captureRow p y s)
    let ended := composerFrameEnd p folded
    ∃ u : State,
      u.seq p = { q with
        linesDriven := y + 1, progress := q.progress + 1, linesLeft := q.linesLeft - 1, frameEnd := q.frameEnd || last,
        prestartDone := q.prestartDone || prestart, markDone := q.markDone || mark } ∧
      u.ingress p = { g with driving := none, lastHost := g.driving.or g.lastHost } ∧
      u.freeSlots = s.freeSlots + (if g.driving.isSome = true ∧ g.lastHost.isSome = true then 1 else 0) ∧
      u.sup p = (if last then (if bad then judgedBad d.staleLimit v else ⟨0, v.mode, .live⟩) else v) ∧
      u.store = (captureRow p y s).store ∧ u.composer p = (if last then ended.composer p else folded.composer p) ∧
      (u.flag (.panel .captureIncomplete p)).count =
        ((if last then ended else s).flag (.panel .captureIncomplete p)).count ∧
      Counted (.panel .prestart p) prestart s u ∧
      Counted (.panel .mark p) (mark && taken) s u ∧ Counted (.panel .captureLost p) (mark && !taken) s u ∧
      Counted (.panel .lineMiss p) (last && decide (g.missing ≠ 0)) s u ∧
      (last = true → g.missing ≠ 0 → (u.flag (.panel .lineMiss p)).info = natWord g.missing) ∧
      Unchanged [.seq p, .ingress p, .composer p, .sup p, .store, .freeSlots, .flags, .able, .queue, .openOrders] s u ∧
      exec (.driveSlotEnd p) s = .next (if e.lineCount.toNat ≤ q.progress + 1 then endSegment p u else beginSlot p u)

/-- BLANK_LINE_END: lines left falls and PRESTART is examined; then the segment ends where it was its last line period. After
the last segment a frame start takes place or the panel enters STRETCH, by the refresh mode, the waiting tickets and the
stretch limit, with a FREE request where it senses in a stretch (R29, R32, R36, R38, R41, R87; log 10). -/
def Obligations.BlankLineEnd : Prop :=
  ∀ (s : State) (p : Panel) (i : Nat) (e : Segment), (s.seq p).run = .running → (s.seq p).segment = some i →
    (s.tables p).segments[i]? = some e → e.kind = .blank →
    let q := s.seq p
    let d := s.pd p
    let prestart := decide (q.prestartDone = false ∧ d.prestartLead ≠ 0 ∧ q.linesLeft - 1 ≤ d.prestartLead)
    let stretches := d.refresh = .adaptive ∧ (s.ingress p).waiting = [] ∧ d.stretchLimit ≠ 0
    (∃ u : State,
      u.seq p =
        { q with progress := q.progress + 1, linesLeft := q.linesLeft - 1, prestartDone := q.prestartDone || prestart } ∧
      Counted (.panel .prestart p) prestart s u ∧ Unchanged [.seq p, .flags, .able, .queue] s u ∧
      exec (.blankLineEnd p) s = .next (if e.lineCount.toNat ≤ q.progress + 1 then endSegment p u else u) ∧
      (e.lineCount.toNat ≤ q.progress + 1 → (s.tables p).segments[i + 1]? = none → MgmtOk s → ¬ stretches →
        ∃ t, exec (.blankLineEnd p) s = .next t ∧ FrameStarted u t p)) ∧
    (e.lineCount.toNat ≤ q.progress + 1 → (s.tables p).segments[i + 1]? = none → stretches →
      s.claim p = ⟨none, none⟩ → ∃ t, exec (.blankLineEnd p) s = .next t ∧
        (t.seq p).run = .stretch ∧ (t.seq p).segment = none ∧ (t.seq p).stretchCount = 0 ∧
        (t.seq p).outcome = .none ∧ (t.seq p).linePos = q.linePos ∧ (t.composer p).driven = none ∧
        (d.stretchSensing = true → (s.tables p).groupList ≠ [] →
          (∃ r, t.claim p = ⟨some r, none⟩ ∧ r.cls = .free ∧ r.groups = 1 ∧ r.yield = none ∧ r.deadline = none) ∨
          ∃ w, t.claim p = ⟨none, some w⟩ ∧ w.remaining = 1) ∧
        (d.stretchSensing = false ∨ (s.tables p).groupList = [] →
          t.claim p = ⟨none, none⟩ ∧ Unchanged [.seq p, .composer p, .flags, .able, .queue] s t) ∧
        Counted (.panel .prestart p) prestart s t ∧ OtherKept p.other s t ∧
        Unchanged (.composer p :: grantParts) s t)

/-- A drive slot begins with the resolution of the line whose number lines driven gives, and the line built from its
result is driven. At the end of a segment the next one begins: DRIVE with its first drive slot, BLANK with no line driven,
SENSE with its request; a SENSE segment whose request is withdrawn at once ends in the same event; after the last segment
comes STRETCH or a frame start (R27 to R30, R32, R93). -/
def Obligations.NextSegment : Prop :=
  ∀ (s : State) (p : Panel),
    let q := s.seq p
    let t := beginSlot p s
    t.seq p = { q with linePos := q.linesDriven } ∧
    t.ingress p = (resolve p q.linesDriven s).ingress p ∧ t.freeSlots = (resolve p q.linesDriven s).freeSlots ∧
    t.composer p = { s.composer p with driven := some (t.buildLine p q.linesDriven) } ∧
    Unchanged [.seq p, .ingress p, .composer p, .freeSlots] s t ∧
    ∀ i, q.segment = some i →
      (∀ e, (s.tables p).segments[i + 1]? = some e →
        let quiet : Composer := { s.composer p with driven := none }
        (e.kind = .drive → endSegment p s =
          beginSlot p (s.setPanel p { s.panel p with seq := { q with segment := some (i + 1), progress := 0 } })) ∧
        (e.kind = .blank → endSegment p s = s.setPanel p
          { s.panel p with seq := { q with segment := some (i + 1), progress := 0 }, composer := quiet }) ∧
        (e.kind = .sense →
          let asked := makeTimelineRequest p e
            (s.setPanel p { s.panel p with seq := { q with segment := some (i + 1) }, composer := quiet })
          endSegment p s = if asked.2 then endSegment p asked.1 else asked.1)) ∧
      ((s.tables p).segments[i + 1]? = none → endSegment p s =
        if (s.pd p).refresh = .adaptive ∧ (s.ingress p).waiting = [] ∧ (s.pd p).stretchLimit ≠ 0
        then enterStretch p s else frameStart p s)

/-- STRETCH_LINE_BOUNDARY: the stretch count rises; the stretch expires with STRETCH_EXPIRED where the count reaches the limit
without an outcome, where a waiting FREE request is withdrawn; with an outcome a frame start follows, or is deferred while a
FREE window holds halves. STRETCH_EXPIRY is the boundary at which the stretch expires (R36, R37, R39; logs 12 and 13). -/
def Obligations.StretchBoundaries : Prop :=
  ∀ (s : State) (p : Panel), (s.seq p).run = .stretch → MgmtOk s → SenseOk s →
    let q := s.seq p
    let n := min 4095 (q.stretchCount + 1)
    let expires := q.outcome = .none ∧ (s.pd p).stretchLimit ≤ n
    let expired := decide (q.outcome = .none ∧ (s.pd p).stretchLimit ≤ n)
    (q.outcome = .none → n < (s.pd p).stretchLimit → exec (.stretchLineBoundary p) s =
      .next (s.setPanel p { s.panel p with seq := { q with stretchCount := n } })) ∧
    (q.outcome ≠ .none ∨ expires → (s.claim p).window = none → ∃ b t, exec (.stretchLineBoundary p) s = .next t ∧
      b.seq p = { q with stretchCount := n, outcome := if expired then .expired else q.outcome } ∧
      b.claim p = ⟨none, none⟩ ∧ b.touch p = s.touch p ∧ OtherKept p.other s b ∧ Unchanged grantParts s b ∧
      Counted (.panel .stretchExpired p) expired s b ∧ FrameStarted b t p ∧
      (t.seq p).stretchCount = n ∧ Counted (.panel .stretchExpired p) expired s t) ∧
    (q.outcome ≠ .none ∨ expires → (s.claim p).window ≠ none → ∃ t, exec (.stretchLineBoundary p) s = .next t ∧
      t.seq p = { q with
        stretchCount := n, outcome := (if expired then .expired else q.outcome), deferred := true } ∧
      Counted (.panel .stretchExpired p) expired s t ∧ Unchanged [.seq p, .flags, .able, .queue] s t) ∧
    (expires → exec (.stretchExpiry p) s = exec (.stretchLineBoundary p) s ∧
      ∃ t, exec (.stretchExpiry p) s = .next t ∧ Counted (.panel .stretchExpired p) true s t)

/-! ### Sense requests and windows -/

/-- A TIMELINE request is granted at its making where the halves it may take number at least its need, A before B; otherwise
it waits in REQUEST with every free half reserved for a need of 2, or, without a wait deadline, is withdrawn at once with
SENSE_SKIPPED. A FREE request is granted or waits in the same way, without a reservation. Among waiting requests that can be
met the rule grants by class, sense priority and panel, and runs again. A granted window enters SWITCH where the last user of
a half it takes is the other panel, else SETUP, and passes through gaps of 0 to its first burst. That this holds for a panel's
first window after a reset too is the model's choice (log 36): it follows R95 over R103, which says that this window pays no
switch gap (R84 to R88, R90, R92, R93, R95; logs 11 and 36). -/
def Obligations.SenseRequests : Prop :=
  (∀ (s : State) (p : Panel) (e : Segment), SenseOk s → s.claim p = ⟨none, none⟩ →
    let t := (makeTimelineRequest p e s).1
    let skipped := (makeTimelineRequest p e s).2
    ∃ r, TimelineRequestOf s p e r ∧ OtherKept p.other s t ∧ Unchanged grantParts s t ∧
      (CanMeet s p r → skipped = false ∧ WindowGranted s t p r ∧
        (∃ w, t.claim p = ⟨none, some w⟩ ∧ w.need = r.need ∧ w.remaining = r.groups) ∧
        (t.arb.a.holder = some p ↔ r.need = 2 ∨ FreeFor s p .a) ∧
        (t.arb.b.holder = some p ↔ r.need = 2 ∨ ¬ FreeFor s p .a)) ∧
      (¬ CanMeet s p r → r.deadline ≠ none →
        skipped = false ∧ t.claim p = ⟨some r, none⟩ ∧ (t.seq p).phase = .request ∧
        t.touch p = s.touch p ∧ t.arb.a = s.arb.a ∧ t.arb.b = s.arb.b ∧
        (r.need = 1 → t.arb.reservation = s.arb.reservation) ∧
        (r.need = 2 → s.arb.a.holder = none → ∃ v, t.arb.reservation = some v ∧ v.panel = p ∧ v.a = true) ∧
        (r.need = 2 → s.arb.b.holder = none → ∃ v, t.arb.reservation = some v ∧ v.panel = p ∧ v.b = true)) ∧
      (¬ CanMeet s p r → r.deadline = none → skipped = true ∧ t.claim p = ⟨none, none⟩ ∧ (t.seq p).phase = .none ∧
        t.touch p = s.touch p ∧ t.arb = s.arb ∧ Counted (.panel .senseSkipped p) true s t)) ∧
  (∀ (s : State) (p : Panel), SenseOk s → s.claim p = ⟨none, none⟩ →
    let t := makeFreeRequest p s
    let groups := (s.tables p).groupList
    ∃ r : Request, r.cls = .free ∧ r.groups = 1 ∧ r.yield = none ∧ r.deadline = none ∧ (r.need = 1 ∨ r.need = 2) ∧
      (r.need = 2 ↔ ∃ g, groups[(s.touch p).cursor % groups.length]? = some g ∧ 16 < g.width) ∧
      (CanMeet s p r → WindowGranted s t p r) ∧
      (¬ CanMeet s p r → t.claim p = ⟨some r, none⟩ ∧ Unchanged [.claim p] s t)) ∧
  (∀ (s : State) (p : Panel) (r : Request), s.grantee = some p → (s.claim p).request = some r →
    r.need = 1 ∨ r.need = 2 → ∃ g, WindowGranted s g p r ∧ (g.grantee = none → runGrantRule s = g) ∧
      ∀ q r', g.grantee = some q → (g.claim q).request = some r' → r'.need = 1 ∨ r'.need = 2 →
        WindowGranted g (runGrantRule s) q r') ∧
  (∀ s : State, s.grantee = none → runGrantRule s = s) ∧
  ∀ (s : State) (p : Panel), s.grantee = some p ↔
    s.canGrant p = true ∧
    ∀ r r', (s.claim p).request = some r → (s.claim p.other).request = some r' → s.canGrant p.other = true →
      (r.cls = .timeline ∧ r'.cls = .free) ∨
      (r.cls = r'.cls ∧ ((s.pd p.other).sensePriority < (s.pd p).sensePriority ∨
        ((s.pd p.other).sensePriority = (s.pd p).sensePriority ∧ p = .p0)))

/-- WAIT_DEADLINE: the waiting request is withdrawn with SENSE_SKIPPED, its reservation ends, the scan cursor stays and the
segment ends. HOLD_GAP_END: the halves are released with last user the panel and the segment ends, or, in STRETCH, the
deferred frame start takes place, or the panel stays in STRETCH, with a new FREE request while there is no outcome. A two-half
TIMELINE request of the other panel that waits is granted at the release, or, where the releasing panel makes its next request
in the same event, has the released halves reserved before that request (R38, R89, R90, R92, R98, R99; logs 12 and 23). -/
def Obligations.DeadlineAndHoldEnd : Prop :=
  (∀ (s : State) (p : Panel) (i : Nat) (r : Request), SenseOk s → (s.seq p).run = .running →
    (s.seq p).segment = some i → (s.claim p).request = some r → r.deadline ≠ none →
    ∃ u : State, u.seq p = { s.seq p with phase := .none } ∧ u.claim p = ⟨none, none⟩ ∧
      (∀ v, u.arb.reservation = some v → v.panel ≠ p) ∧ u.touch p = s.touch p ∧
      Counted (.panel .senseSkipped p) true s u ∧ OtherKept p.other s u ∧ Unchanged grantParts s u ∧
      exec (.waitDeadline p) s = .next (endSegment p u)) ∧
  ∀ (s : State) (p : Panel), SenseOk s → (s.seq p).phase = .hold →
    let released (u : State) : Prop := LastUsersOf s u p ∧ StillHolds s u p.other ∧ OtherKept p.other s u
    let granted (u : State) : Prop := ∃ r b, (s.claim p.other).request = some r ∧ LastUsersOf s b p ∧
      Unchanged [.arbiter, .seq p, .claim p] s b ∧ WindowGranted b u p.other r
    let ended (u : State) : Prop := released u ∧ u.seq p = { s.seq p with phase := .none } ∧ u.claim p = ⟨none, none⟩ ∧
      u.arb.a.holder ≠ some p ∧ u.arb.b.holder ≠ some p ∧ u.touch p = s.touch p ∧ Unchanged grantParts s u
    (∀ i, (s.seq p).run = .running → (s.seq p).segment = some i → ∃ u : State, ended u ∧
      ((s.tables p).segments[i + 1]?.map Segment.kind ≠ some .sense → s.waitsForTwo p.other = true →
        (∃ w, u.claim p.other = ⟨none, some w⟩ ∧ w.need = 2) ∧ granted u) ∧
      ((s.tables p).segments[i + 1]?.map Segment.kind = some .sense → Unchanged [.arbiter, .seq p, .claim p] s u ∧
        (s.waitsForTwo p.other = true → ∃ v, u.arb.reservation = some v ∧ v.panel = p.other ∧
          (s.arb.a.holder = some p → v.a = true) ∧ (s.arb.b.holder = some p → v.b = true))) ∧
      exec (.holdGapEnd p) s = .next (endSegment p u)) ∧
    ((s.seq p).run = .stretch → (s.seq p).outcome ≠ .none → (s.seq p).deferred = false →
      ∃ t, exec (.holdGapEnd p) s = .next t ∧ ended t) ∧
    ((s.seq p).run = .stretch → (s.seq p).outcome ≠ .none → (s.seq p).deferred = true → MgmtOk s →
      ∃ b t, exec (.holdGapEnd p) s = .next t ∧ ended b ∧ FrameStarted b t p ∧ released t) ∧
    ((s.seq p).run = .stretch → (s.seq p).outcome = .none → s.sensesStretch p = true → ∃ t,
      exec (.holdGapEnd p) s = .next t ∧ released t ∧ (t.seq p).run = .stretch ∧
      ((∃ r, t.claim p = ⟨some r, none⟩ ∧ r.cls = .free) ∨ ∃ w, t.claim p = ⟨none, some w⟩ ∧ w.remaining = 1) ∧
      (s.waitsForTwo p.other = true → (∃ w, t.claim p.other = ⟨none, some w⟩ ∧ w.need = 2) ∧ granted t) ∧
      Unchanged grantParts s t)

/-- SWITCH_GAP_END enters SETUP, through which a setup gap of 0 passes in the same event; SETUP_GAP_END begins the first burst
(R30, R95, R96, R110, R122). -/
def Obligations.GapEnds : Prop :=
  (∀ (s : State) (p : Panel), (s.seq p).phase = .switch → (s.pd p).setupGap ≠ 0 →
    exec (.switchGapEnd p) s = .next (s.setPanel p { s.panel p with seq := { s.seq p with phase := .setup } })) ∧
  (∀ (s : State) (p : Panel), (s.seq p).phase = .switch → (s.pd p).setupGap = 0 →
    ∃ t, exec (.switchGapEnd p) s = .next t ∧ BurstBegun s t p) ∧
  ∀ (s : State) (p : Panel), (s.seq p).phase = .setup → ∃ t, exec (.setupGapEnd p) s = .next t ∧ BurstBegun s t p

/-- BURST_COMPLETE: each cell of the group takes its raw count, the noise metric is taken into the cycle, the cursor moves
forward, and after the last group to 0, with the completion of the cycle; then the window's next burst begins, or the window
enters HOLD, through which a hold gap of 0 passes in the same event (R95 to R97, R109, R110). -/
def Obligations.BurstComplete : Prop :=
  ∀ (s : State) (p : Panel) (raws : List Word) (noise : Word) (w : Window) (b : Burst) (g : Group),
    StoresOk s → (s.seq p).phase = .burst → (s.claim p).window = some w → w.burst = some b →
    (s.tables p).groupList[b.group]? = some g → raws.length = g.width → g.col + g.width ≤ 64 →
    let x := s.touch p
    let last := decide (b.group + 1 = (s.tables p).groupList.length)
    ∃ u : State,
      (∀ col row, col < 64 → (u.touch p).cell col row =
        if row = g.row ∧ g.col ≤ col ∧ col < g.col + g.width
        then { x.cell col row with raw := raws.getD (col - g.col) 0 } else x.cell col row) ∧
      u.touch p = { x with
        cells := (u.touch p).cells, cursor := if last then 0 else b.group + 1
        noiseMax := if x.noiseMax.toNat < noise.toNat then noise else x.noiseMax } ∧
      Unchanged [.touch p] s u ∧
      let v := if last then completeCycle p u else u
      let left (ph : SensePhase) : State := v.setPanel p { v.panel p with
        seq := { s.seq p with phase := ph }
        claim := ⟨(s.claim p).request, some { w with remaining := w.remaining - 1, burst := none }⟩ }
      (1 < w.remaining → ∃ t, exec (.burstComplete p raws noise) s = .next t ∧ BurstBegun (left .burst) t p) ∧
      (w.remaining = 1 → (s.pd p).holdGap ≠ 0 → exec (.burstComplete p raws noise) s = .next (left .hold)) ∧
      (w.remaining = 1 → (s.pd p).holdGap = 0 →
        exec (.burstComplete p raws noise) s = exec (.holdGapEnd p) (left .hold))

/-! ### Scan cycles -/

/-- A cycle completes: each measured cell's contact by hysteresis and, in a clean cycle, its baseline by the drift step, or in
a reseed every baseline from its raw count and no contact; the cycle closes, with frames spanned kept by the model's choice
(log 37), and the noise count leads to SCAN_NOISY, a pending hop or NOISE_PERSIST (R110, R112, R113, R116, R120, R121; log
37). -/
def Obligations.CycleCompletes : Prop :=
  ∀ (s : State) (p : Panel), StoresOk s → (s.tables p).measured.Nodup → (∀ c ∈ (s.tables p).measured, c.1 < 64) →
    let d := s.pd p
    let x := s.touch p
    let t := completeCycle p s
    let noisy := decide (d.noiseThreshold < x.noiseMax.toNat)
    let reached := noisy && decide (d.hopTrigger ≤ x.noisy + 1)
    let many := decide (2 ≤ (s.tables p).hopLength)
    (∀ col row, col < 64 →
      let c := x.cell col row
      let delta : Int := (c.raw.toNat : Int) - c.baseline.toNat
      let contact := if c.contact then decide ((d.releaseThreshold : Int) ≤ delta) else decide ((d.touchThreshold : Int) ≤ delta)
      let after := (t.touch p).cell col row
      after.raw = c.raw ∧
      (x.reseed = true → after.contact = false ∧
        after.baseline = if (col, row) ∈ (s.tables p).measured then c.raw else c.baseline) ∧
      (x.reseed = false → (col, row) ∉ (s.tables p).measured → after = c) ∧
      (x.reseed = false → (col, row) ∈ (s.tables p).measured → after.contact = contact ∧
        (contact = true ∨ noisy = true → after.baseline = c.baseline) ∧
        (contact = false → noisy = false → after.baseline.toNat =
          if c.baseline.toNat ≤ c.raw.toNat then c.baseline.toNat + min d.driftStep (c.raw.toNat - c.baseline.toNat)
          else c.baseline.toNat - min d.driftStep (c.baseline.toNat - c.raw.toNat)))) ∧
    (t.touch p).cycle = x.cycle + 1 ∧ (t.touch p).cycleOpen = false ∧ (t.touch p).reseed = false ∧
    (t.touch p).cursor = x.cursor ∧ (t.touch p).hop = x.hop ∧ (t.touch p).spanned = x.spanned ∧
    (t.touch p).noisy = (if noisy then (if reached then 0 else x.noisy + 1) else 0) ∧
    (t.touch p).hopPending = (x.hopPending || (reached && many)) ∧
    Counted (.panel .scanNoisy p) noisy s t ∧ Counted (.panel .noisePersist p) (reached && !many) s t ∧
    Unchanged [.touch p, .flags, .able, .queue, .openOrders] s t

/-- The contact list of an ordinary completion holds each measured cell in contact and not masked once, by delta, row and
column; the report of a completion carries the first max contacts of it, is offered where the list is not empty or the last
report had contacts, and sets last report had contacts where the queue takes it (R114, R115, R116, R118; log 7). -/
def Obligations.TouchReports : Prop :=
  ∀ (s : State) (p : Panel), LinkOk s → (s.tables p).measured.Nodup →
    let d := s.pd p
    let x := s.touch p
    let t := completeCycle p s
    let seen := x.evaluate (s.tables p)
    let list := seen.candidates (s.tables p)
    let masked (col row : Nat) : Prop := ∃ r ∈ (s.tables p).regions.toList, r.valid = true ∧ r.mask = true ∧
      r.x0 ≤ col * d.pitchX + d.pitchX / 2 ∧ col * d.pitchX + d.pitchX / 2 ≤ r.x1 ∧
      r.y0 ≤ row * d.pitchY + d.pitchY / 2 ∧ row * d.pitchY + d.pitchY / 2 ≤ r.y1
    let contacts := if x.reseed then [] else
      (list.take d.maxContacts).map fun c => { c with delta := max (-32768) (min 32767 c.delta) }
    let report : TouchParcel :=
      { panel := p, cycle := x.cycle, hop := x.hop, spanned := x.spanned,
        noisy := decide (d.noiseThreshold < x.noiseMax.toNat),
        truncated := !x.reseed && decide (d.maxContacts < list.length), coalesced := false, contacts := contacts }
    list.Nodup ∧
    (list.Pairwise fun a b => b.delta < a.delta ∨ a.delta = b.delta ∧ (a.row < b.row ∨ a.row = b.row ∧ a.col < b.col)) ∧
    (∀ c, c ∈ list ↔ (c.col, c.row) ∈ (s.tables p).measured ∧ (seen.cell c.col c.row).contact = true ∧
      ¬ masked c.col c.row ∧ c.delta = ((seen.cell c.col c.row).raw.toNat : Int) - (seen.cell c.col c.row).baseline.toNat) ∧
    (s.link.state = .up → contacts ≠ [] ∨ x.lastHad = true →
      (t.touch p).lastHad = decide (contacts ≠ []) ∧
      ∃ b, .touch { report with coalesced := b } ∈ t.link.unsent) ∧
    (s.link.state ≠ .up ∨ contacts = [] ∧ x.lastHad = false →
      (t.touch p).lastHad = x.lastHad ∧
      t.link.queue.countP (OutParcel.isTouchOf p) = s.link.queue.countP (OutParcel.isTouchOf p))

/-! ### Regions -/

/-- The pixel driven at (x, y): the valid region of lowest index that contains it decides, by its mode and the content mode,
and elsewhere the base line shows: the host line taken, or the substitute of the missing policy, or in SAFE the fill colour
(R11, R54, R55). -/
def Obligations.DrivenPixels : Prop :=
  ∀ (s : State) (p : Panel) (x y : Nat), x < (s.pd p).width →
    let d := s.pd p
    let g := s.ingress p
    let shown := (s.buildLine p y)[x]?
    let host : Pixel := match g.driving with
      | some e => e.pixels.getD x d.fill
      | none => if d.policy = .fill then d.fill else match g.lastHost with
        | some e => e.pixels.getD x d.fill
        | none => d.fill
    let base := if (s.sup p).mode = .safe then d.fill else host
    let covers (r : Region) : Prop := r.valid = true ∧ r.x0 ≤ x ∧ x ≤ r.x1 ∧ r.y0 ≤ y ∧ y ≤ r.y1
    (s.buildLine p y).length = d.width ∧
    ((∀ r ∈ (s.tables p).regions.toList, ¬ covers r) → shown = some base) ∧
    ∀ (i : Nat) (r : Region) (st : RegionState), (s.tables p).regions[i]? = some r → (s.composer p).regions[i]? = some st →
      covers r → (∀ j < i, ∀ r', (s.tables p).regions[j]? = some r' → ¬ covers r') →
      let front := match st.side with | .first => r.firstBlock | .second => r.firstBlock + r.imageBlocks
      let image := if st.front = .empty then d.fill
        else s.store.readPixel (imageAddr r front (x - r.x0) (y - r.y0))
      (r.mode = .window → shown = some (if (s.sup p).mode = .live then base else d.fill)) ∧
      (r.mode = .mirror → shown = some (if (s.sup p).mode = .live then base else image)) ∧
      (r.mode = .staged → shown = some image) ∧
      (r.mode = .fixed → shown = some image)

/-- A host line driven in LIVE is captured, before any overlay, into the back image of each capturing region over its row, no
other byte of the store is written, and no other line is captured; at frame end complete images exchange, incomplete ones keep
the front image and raise CAPTURE_INCOMPLETE once each with the region index, in ascending index, every mask is empty, and the
CHECK parcel is offered after that. The model's own are the byte addresses of the store (its choice, log 22), the taking of
each occurrence with the choice it leads to before the next one (its choice, log 33), and the check accumulators that frame
end leaves as they are (its reading, log 21) (R49, R52, R56, R57, R61; logs 21, 22 and 33). -/
def Obligations.CaptureAndExchange : Prop :=
  (∀ (s : State) (p : Panel) (y : Nat) (e : LineSlot), StoresOk s → MgmtOk s → ImagesOk s → (s.sup p).mode = .live →
    (s.ingress p).driving = some e → e.pixels.length = (s.pd p).width →
    let t := captureRow p y s
    let back (r : Region) (st : RegionState) : Nat :=
      match st.side with | .first => r.firstBlock + r.imageBlocks | .second => r.firstBlock
    let front (r : Region) (st : RegionState) : Nat :=
      match st.side with | .first => r.firstBlock | .second => r.firstBlock + r.imageBlocks
    let entry (i : Nat) (r : Region) (st : RegionState) : Prop :=
      (s.tables p).regions[i]? = some r ∧ (s.composer p).regions[i]? = some st ∧ r.valid = true
    (∀ i r st, entry i r st → ∃ st', (t.composer p).regions[i]? = some st' ∧
      st'.front = st.front ∧ st'.side = st.side ∧ st'.acc = st.acc ∧
      (r.capture = true → r.y0 ≤ y → y ≤ r.y1 →
        (∀ row, row ∈ st'.mask ↔ row ∈ st.mask ∨ row = y - r.y0) ∧
        ∀ x, r.x0 ≤ x → x ≤ r.x1 →
          some (t.store.readPixel (imageAddr r (back r st) (x - r.x0) (y - r.y0))) = e.pixels[x]?) ∧
      (¬ (r.capture = true ∧ r.y0 ≤ y ∧ y ≤ r.y1) → st' = st) ∧
      (r.mode ≠ .window → ∀ x' y', r.x0 ≤ x' → x' ≤ r.x1 → r.y0 ≤ y' → y' ≤ r.y1 →
        t.store.readPixel (imageAddr r (front r st) (x' - r.x0) (y' - r.y0)) =
          s.store.readPixel (imageAddr r (front r st) (x' - r.x0) (y' - r.y0)))) ∧
    (∀ a, (∀ i r st, entry i r st → r.capture = true → r.y0 ≤ y → y ≤ r.y1 → ∀ x, r.x0 ≤ x → x ≤ r.x1 →
        ∀ k < 3, a ≠ imageAddr r (back r st) (x - r.x0) (y - r.y0) + k) → t.store.read a = s.store.read a) ∧
    (t.composer p).driven = (s.composer p).driven ∧ Unchanged [.composer p, .store] s t) ∧
  (∀ (s : State) (p : Panel) (y : Nat), (s.sup p).mode = .safe ∨ (s.ingress p).driving = none → captureRow p y s = s) ∧
  ∀ (s : State) (p : Panel), (s.flag (.panel .captureIncomplete p)).count ≤ 255 →
    let t := composerFrameEnd p s
    let all (r : Region) (st : RegionState) : Prop := ∀ row < r.y1 - r.y0 + 1, row ∈ st.mask
    let capturing (i : Nat) (r : Region) (st : RegionState) : Prop := (s.tables p).regions[i]? = some r ∧
      (s.composer p).regions[i]? = some st ∧ r.valid = true ∧ r.capture = true
    (∀ i r st, capturing i r st → ∃ st', (t.composer p).regions[i]? = some st' ∧ st'.mask = [] ∧ st'.acc = st.acc ∧
      (all r st → st'.front = .valid ∧ st'.side = (match st.side with | .first => .second | .second => .first)) ∧
      (¬ all r st → st'.front = st.front ∧ st'.side = st.side)) ∧
    (∀ (i : Nat) (r : Region) (st : RegionState), (s.tables p).regions[i]? = some r →
      (s.composer p).regions[i]? = some st → r.valid = false ∨ r.capture = false → (t.composer p).regions[i]? = some st) ∧
    (t.composer p).driven = (s.composer p).driven ∧ Unchanged [.composer p, .flags, .able, .queue] s t ∧
    ∃ (incomplete : List Nat) (u : State), incomplete.Pairwise (· < ·) ∧
      (∀ i, i ∈ incomplete ↔ ∃ r st, capturing i r st ∧ ¬ all r st ∧ st.mask ≠ []) ∧
      Unchanged [.composer p] s u ∧
      t = offerChecks p
        (incomplete.foldl (fun v i => occur (.panel .captureIncomplete p) (BitVec.ofNat 16 i) v) u) ∧
      (t.flag (.panel .captureIncomplete p)).count =
        min 255 ((s.flag (.panel .captureIncomplete p)).count + incomplete.length) ∧
      ∀ i, incomplete.getLast? = some i → (t.flag (.panel .captureIncomplete p)).info = BitVec.ofNat 16 i

/-- The check of a region: each row of it that ends its drive slot is folded into the region's CRC, the pixels driven from x0
to x1, red, green and blue of each, and counts as substituted unless it was a host line driven in LIVE. At frame end one CHECK
parcel is offered where a region is checked, with the scan frame, the content mode and an entry for each checked region in
ascending index. The CAPTURE parcel of a marker line holds the line as it was driven (R43, R59, R60, R61). -/
def Obligations.RegionChecks : Prop :=
  (∀ (c : BitVec 32) (b : Byte), crcByte c b = (List.range 8).foldl
    (fun c _ => if c.getLsbD 0 then (c >>> 1) ^^^ (0x04C11DB7#32).reverse else c >>> 1) (c ^^^ b.setWidth 32)) ∧
  (∀ (s : State) (p : Panel) (y : Nat) (line : List Pixel), (s.composer p).driven = some line →
    let t := foldChecks p y s
    let host : Bool := decide ((s.sup p).mode = .live) && (s.ingress p).driving.isSome
    Unchanged [.composer p] s t ∧ (t.composer p).driven = some line ∧
    ∀ (i : Nat) (r : Region) (st : RegionState), (s.tables p).regions[i]? = some r →
      (s.composer p).regions[i]? = some st → r.x0 ≤ r.x1 → r.x1 < line.length →
      let bytes : List Byte := (List.range (r.x1 - r.x0 + 1)).flatMap fun k =>
        let px := line.getD (r.x0 + k) Pixel.black
        [px.red, px.green, px.blue]
      (t.composer p).regions[i]? = some
        (if r.y0 ≤ y ∧ y ≤ r.y1 then
          { st with acc := st.acc.map fun a =>
            ⟨bytes.foldl crcByte a.crc, if host then a.substituted else a.substituted + 1⟩ }
         else st)) ∧
  ∀ (s : State) (p : Panel) (i : Nat) (e : Segment), (s.seq p).run = .running → (s.seq p).segment = some i →
    (s.tables p).segments[i]? = some e → e.kind = .drive → s.link.state = .up → LinkOk s →
    let q := s.seq p
    let d := s.pd p
    let scan := (s.ingress p).scan.map Ticket.frame
    ∃ t, exec (.driveSlotEnd p) s = .next t ∧
      (∀ line, (s.composer p).driven = some line → q.markDone = false → d.marker = some q.linePos → d.binding = .capture →
        s.link.queue.countP OutParcel.isCapture < 8 →
        t.link.queue.countP OutParcel.isCapture = s.link.queue.countP OutParcel.isCapture + 1 ∧
        .capture ⟨p, scan, q.linePos, (s.sup p).mode, d.width, line⟩ ∈ t.link.unsent) ∧
      (q.markDone = true ∨ d.marker ≠ some q.linePos ∨ d.binding = .notice →
        t.link.queue.countP OutParcel.isCapture = s.link.queue.countP OutParcel.isCapture) ∧
      let after := foldChecks p q.linePos (captureRow p q.linePos s)
      let checked (j : Nat) (a : CheckAcc) : Prop := ∃ r st, (s.tables p).regions[j]? = some r ∧ r.valid = true ∧
        r.check = true ∧ (after.composer p).regions[j]? = some st ∧ st.acc = some a
      (q.linePos + 1 = d.activeLines → (∃ j a, checked j a) →
        ∃ (n : Nat) (entries : List CheckEntry), .check ⟨p, scan, (s.sup p).mode, n, entries⟩ ∈ t.link.unsent ∧
          (entries.Pairwise fun a b => a.region < b.region) ∧
          ∀ x, x ∈ entries ↔ ∃ j a, checked j a ∧ x = ⟨j, ~~~ a.crc, a.substituted⟩) ∧
      (q.linePos + 1 ≠ d.activeLines ∨ (∀ j a, ¬ checked j a) →
        t.link.queue.countP (OutParcel.isCheckOf p) = s.link.queue.countP (OutParcel.isCheckOf p))

/-! ### Offers -/

/-- A TOUCH or CHECK offered while the link is UP replaces the first unsent one of its panel in its place, marked as coalesced
or with the frames skipped counted, and otherwise joins the queue; while the link is not UP it is dropped (R62, R119,
R159). -/
def Obligations.CoalescingOffers : Prop :=
  ∀ (s : State) (touch : TouchParcel) (check : CheckParcel),
    (s.link.state ≠ .up → offerTouch touch s = s ∧ offerCheck check s = s) ∧
    (s.link.state = .up → ∀ sent, s.link.queue = sent ++ s.link.unsent →
      (s.link.unsent.all (fun x => !x.isTouchOf touch.panel) = true →
        offerTouch touch s = { s with link := { s.link with
          queue := s.link.queue ++ [.touch { touch with coalesced := false }] } }) ∧
      (s.link.unsent.all (fun x => !x.isCheckOf check.panel) = true →
        offerCheck check s = { s with link := { s.link with
          queue := s.link.queue ++ [.check { check with skipped := 0 }] } }) ∧
      (∀ before after u, s.link.unsent = before ++ .touch u :: after → u.panel = touch.panel →
        before.all (fun x => !x.isTouchOf touch.panel) = true →
        offerTouch touch s = { s with link := { s.link with
          queue := sent ++ before ++ .touch { touch with coalesced := true } :: after } }) ∧
      ∀ before after u, s.link.unsent = before ++ .check u :: after → u.panel = check.panel →
        before.all (fun x => !x.isCheckOf check.panel) = true →
        offerCheck check s = { s with link := { s.link with
          queue := sent ++ before ++ .check { check with skipped := min 255 (u.skipped + 1) } :: after } })
end

