-- ==== Sys2Proof/Laws/Validate.lean ====
section
/-! SUPPORT. What each check of a commit's validation says, in the words of the rules (R21, R22, R50, R51, R106, R123). -/

namespace Sys2Proof.Machine

theorem descriptorBad_iff (d : PanelDescriptor) : descriptorBad d = false ↔ DescriptorFits d := by
  unfold descriptorBad
  constructor
  · intro h
    simp only [Bool.or_eq_false_iff, decide_eq_false_iff_not, Nat.not_lt] at h
    refine ⟨h.1, fun y hy => ?_⟩
    have := h.2
    simp only [hy, decide_eq_false_iff_not, Nat.not_le] at this
    exact this
  · rintro ⟨h1, h2⟩
    simp only [Bool.or_eq_false_iff, decide_eq_false_iff_not, Nat.not_lt]
    refine ⟨h1, ?_⟩
    split
    · rfl
    · rename_i y hy
      simpa using h2 y hy

theorem driveSum_eq (es : List Segment) : driveSum es =
    ((es.filter fun e => decide (e.kind = .drive)).map fun e => e.lineCount.toNat).sum := by
  unfold driveSum
  induction es with
  | nil => rfl
  | cons e es ih => cases h : e.kind <;> simp [h, ih]

theorem segments_length (t : Tables) : t.segments.length ≤ 48 :=
  Nat.le_trans (List.takeWhile_sublist _).length_le (by simp)

theorem timelineBad_iff (t : Tables) : timelineBad t = false ↔ TimelineFits t := by
  unfold timelineBad
  simp only [driveSum_eq, Bool.or_eq_false_iff, decide_eq_false_iff_not, Nat.not_lt, Bool.not_eq_false', ne_eq, Decidable.not_not,
    List.any_eq_true, decide_eq_true_eq, Bool.and_eq_false_iff]
  constructor
  · rintro ⟨⟨⟨⟨h1, h2⟩, h3⟩, h4⟩, h5⟩
    refine ⟨⟨h1, segments_length t⟩, h2, h3, h4, fun ⟨e, he, hk⟩ => ?_⟩
    refine h5.resolve_left fun h => ?_
    simp only [List.any_eq_false, decide_eq_true_eq] at h
    exact h e he hk
  · rintro ⟨h1, h2, h3, h4, h5⟩
    refine ⟨⟨⟨⟨h1.1, h2⟩, h3⟩, h4⟩, ?_⟩
    by_cases h : ∃ e ∈ t.segments, e.kind = .sense
    · exact .inr (h5 h)
    · left
      simp only [List.any_eq_false, decide_eq_true_eq]
      exact fun e he hk => h ⟨e, he, hk⟩

/-- The blocks of a region are those from its first block on, as many as it uses. -/
theorem usesBlock_iff (r : Region) (k : Nat) :
    r.UsesBlock k ↔ r.firstBlock ≤ k ∧ k < r.firstBlock + r.blocksUsed := by
  unfold Region.UsesBlock Region.blocksUsed Region.mode
  cases r.valid <;> cases r.source <;> cases r.capture <;> simp

theorem blocksClash_iff (a b : Region) : blocksClash a b = false ↔ ∀ k, ¬ (a.UsesBlock k ∧ b.UsesBlock k) := by
  simp only [usesBlock_iff, blocksClash, Bool.and_eq_false_iff, decide_eq_false_iff_not, ne_eq, Decidable.not_not, Nat.not_lt]
  constructor
  · rintro h k ⟨h1, h2⟩
    omega
  · intro h
    have h1 := h a.firstBlock
    have h2 := h b.firstBlock
    omega

/-- A window's first block is within the store, as the range of the field says (R48). -/
theorem regionBad_iff (d : PanelDescriptor) (r : Region) (hr : r.firstBlock ≤ 63) :
    regionBad d r = false ↔ (r.valid = true → RegionFits d r) := by
  unfold regionBad
  cases hv : r.valid with
  | false => simp
  | true =>
    simp only [Bool.true_and, Bool.or_eq_false_iff, decide_eq_false_iff_not, Nat.not_lt, Nat.not_le, Bool.and_eq_false_iff,
      forall_const]
    have hb : r.firstBlock + r.blocksUsed ≤ 64 ↔ ∀ k, r.UsesBlock k → k ≤ 63 := by
      simp only [usesBlock_iff]
      constructor
      · intro h k hk; omega
      · intro h
        have := h (r.firstBlock + r.blocksUsed - 1)
        omega
    rw [hb]
    constructor
    · rintro ⟨⟨⟨⟨⟨h1, h2⟩, h3⟩, h4⟩, h5⟩, h6⟩
      refine ⟨⟨h1, h2⟩, ⟨h3, h4⟩, fun ⟨hc, hl⟩ => ?_, h6⟩
      simp [hc, hl] at h5
    · rintro ⟨h1, h2, h3, h4⟩
      refine ⟨⟨⟨⟨⟨h1.1, h1.2⟩, h2.1⟩, h2.2⟩, ?_⟩, h4⟩
      cases hl : r.locked <;> cases hc : r.capture <;> simp_all

theorem groupFits_iff (d : PanelDescriptor) (g : Group) : groupFits d g = true ↔ GroupFits d g := by
  simp [groupFits, GroupFits]

theorem mem_cells (g : Group) (c : Nat × Nat) : c ∈ g.cells ↔ c.2 = g.row ∧ g.col ≤ c.1 ∧ c.1 < g.col + g.width := by
  obtain ⟨x, y⟩ := c
  simp only [Group.cells, List.mem_map, List.mem_range, Prod.mk.injEq]
  constructor
  · rintro ⟨i, hi, rfl, rfl⟩
    simp; omega
  · rintro ⟨h1, h2, h3⟩
    exact ⟨x - g.col, by omega, by omega, h1.symm⟩

/-- Every width in range is at least 1 (R105). -/
theorem groupsOverlap_iff (a b : Group) (ha : 1 ≤ a.width) (hb : 1 ≤ b.width) :
    groupsOverlap a b = false ↔ ∀ c ∈ a.cells, c ∉ b.cells := by
  simp only [groupsOverlap, mem_cells, Bool.and_eq_false_iff, decide_eq_false_iff_not, Nat.not_lt]
  constructor
  · rintro h c ⟨h1, h2, h3⟩ ⟨h4, h5, h6⟩
    rw [h1] at h4
    omega
  · intro h
    have h1 := h (a.col, a.row)
    have h2 := h (b.col, a.row)
    dsimp only at h1 h2
    by_cases hr : a.row = b.row <;> omega

theorem groupsApart_of (a b : Group) (h : groupsOverlap a b = false) : ∀ c ∈ a.cells, c ∉ b.cells := by
  simp only [groupsOverlap, Bool.and_eq_false_iff, decide_eq_false_iff_not, Nat.not_lt] at h
  simp only [mem_cells]
  rintro c ⟨h1, h2, h3⟩ ⟨h4, h5, h6⟩
  rw [h1] at h4
  omega

theorem hopLength_iff (t : Tables) : t.hopLength ≠ 0 ↔ t.hops[0] ≠ none := by
  have h : t.hops.toList = t.hops[0] :: t.hops.toList.tail := by
    rcases hl : t.hops.toList with _ | ⟨x, l⟩
    · simpa using congrArg List.length hl
    · have : t.hops[0] = t.hops.toList[0]'(by simp) := by simp
      rw [this]; simp [hl]
  unfold Tables.hopLength
  rw [h]
  cases t.hops[0] <;> simp

end Sys2Proof.Machine
end

