-- ==== Sys2Proof/Laws/Checks.lean ====
section
/-! SUPPORT. Boolean checks of the invariants of Safety.lean, each with the proof that a state that passes the check
has the invariant: what a concrete state is shown in order with. -/

namespace Sys2Proof.Machine

/-! ### Lists and options -/

/-- A decidable test of `Adjacent`. -/
def adjacentCheck {α : Type} (r : α → α → Bool) : List α → Bool
  | [] => true
  | [_] => true
  | a :: b :: l => r a b && adjacentCheck r (b :: l)

theorem adjacent_of_check {α : Type} {r : α → α → Bool} {q : α → α → Prop} (h : ∀ a b, r a b = true → q a b) :
    ∀ l, adjacentCheck r l = true → Adjacent q l
  | [], _ => trivial
  | [_], _ => trivial
  | a :: b :: l, hl => by
    simp only [adjacentCheck, Bool.and_eq_true] at hl
    exact ⟨h a b hl.1, adjacent_of_check h (b :: l) hl.2⟩

/-- A decidable test of `List.Pairwise`. -/
def pairwiseCheck {α : Type} (r : α → α → Bool) : List α → Bool
  | [] => true
  | a :: l => l.all (r a) && pairwiseCheck r l

theorem pairwise_of_check {α : Type} {r : α → α → Bool} {q : α → α → Prop} (h : ∀ a b, r a b = true → q a b) :
    ∀ l, pairwiseCheck r l = true → l.Pairwise q
  | [], _ => .nil
  | a :: l, hl => by
    simp only [pairwiseCheck, Bool.and_eq_true, List.all_eq_true] at hl
    exact .cons (fun b hb => h a b (hl.1 b hb)) (pairwise_of_check h l hl.2)

/-- A test of both panels. -/
def bothPanels (f : Panel → Bool) : Bool := f .p0 && f .p1

theorem bothPanels_iff {f : Panel → Bool} : bothPanels f = true ↔ ∀ p, f p = true := by
  simp only [bothPanels, Bool.and_eq_true]
  exact ⟨fun h p => by cases p <;> simp [h], fun h => ⟨h _, h _⟩⟩

/-! ### Tables -/

/-- The checks of R142 that read one table set, by the model's own functions. -/
def selfValidCheck (t : Tables) : Bool :=
  !descriptorBad t.pd && !timelineBad t && t.regions.toList.all (fun r => decide (r.firstBlock ≤ 63) && !regionBad t.pd r) &&
  (List.range 16).all (fun i => !regionClashes t [] i) && (List.range 64).all (fun i => !groupBad t i) &&
  decide (t.hopLength ≠ 0)

theorem apart_of_check {t : Tables} (h : ∀ i < 16, regionClashes t [] i = false) (i j : Nat) (a b : Region) (hij : i ≠ j)
    (ha : t.regions[i]? = some a) (hb : t.regions[j]? = some b) : ∀ k, ¬ (a.UsesBlock k ∧ b.UsesBlock k) := by
  have hi : i < 16 := by
    rcases Nat.lt_or_ge i 16 with h | h
    · exact h
    · simp [Vector.getElem?_eq_none h] at ha
  have h := h i hi
  simp only [regionClashes, ha, List.any_nil, Bool.or_false, List.any_eq_false, Bool.and_eq_true, decide_eq_true_eq,
    not_and, Bool.not_eq_true] at h
  rw [← blocksClash_iff]
  exact h (b, j) (List.mem_zipIdx_iff_getElem?.2 (by simpa using hb)) (Ne.symm hij)

theorem groups_of_check {t : Tables} (h : ∀ i < 64, groupBad t i = false) :
    (∀ g ∈ t.groupList, GroupFits t.pd g) ∧ ∀ (i j : Nat) (a b : Group), i ≠ j → t.groupList[i]? = some a →
      t.groupList[j]? = some b → ∀ c ∈ a.cells, c ∉ b.cells := by
  have hl : t.groupList.length ≤ 64 := Nat.le_trans (List.takeWhile_sublist _).length_le (by simp)
  have key : ∀ (i : Nat) (g : Group), t.groupList[i]? = some g → groupFits t.pd g = true ∧
      ∀ e ∈ t.groupList.zipIdx, e.2 ≠ i → groupsOverlap g e.1 = false := by
    intro i g hg
    have h := h i (Nat.lt_of_lt_of_le (List.getElem?_eq_some_iff.1 hg).1 hl)
    simp only [groupBad, hg, Bool.or_eq_false_iff, Bool.not_eq_false', List.any_eq_false, Bool.and_eq_true,
      decide_eq_true_eq, not_and, Bool.not_eq_true] at h
    exact h
  refine ⟨fun g hg => ?_, fun i j a b hij ha hb => ?_⟩
  · obtain ⟨i, hi⟩ := List.getElem?_of_mem hg
    exact (groupFits_iff _ _).1 (key i g hi).1
  · exact groupsApart_of a b ((key i a ha).2 (b, j) (List.mem_zipIdx_iff_getElem?.2 hb) (Ne.symm hij))

theorem selfValid_of_check {t : Tables} (h : selfValidCheck t = true) : SelfValid t := by
  simp only [selfValidCheck, Bool.and_eq_true, Bool.not_eq_true', List.all_eq_true, List.mem_range,
    decide_eq_true_eq] at h
  obtain ⟨⟨⟨⟨⟨h1, h2⟩, h3⟩, h4⟩, h5⟩, h6⟩ := h
  exact ⟨(descriptorBad_iff _).1 h1, (timelineBad_iff _).1 h2,
    fun r hr => (regionBad_iff _ _ (h3 r hr).1).1 (h3 r hr).2, apart_of_check h4, (groups_of_check h5).1,
    (groups_of_check h5).2, (hopLength_iff _).1 h6⟩

def togetherCheck (t u : Tables) : Bool :=
  (t.regions.toList.all fun a => u.regions.toList.all fun b => !blocksClash a b) && decide (t.pd.quota + u.pd.quota ≤ 92)

theorem together_of_check {t u : Tables} (h : togetherCheck t u = true) : Together t u := by
  simp only [togetherCheck, Bool.and_eq_true, Bool.not_eq_true', List.all_eq_true, decide_eq_true_eq] at h
  exact ⟨fun a ha b hb => (blocksClash_iff a b).1 (h.1 a ha b hb), h.2⟩

def locksCheck (m : Mgmt) : Bool :=
  ((List.range 16).all fun i => !decide ((m.active.regions.toList[i]?).map Region.locked = some true) ||
    decide (m.staged.regions.toList[i]? = m.active.regions.toList[i]?)) &&
  (!m.supLock || sameSupervision m.staged.pd m.active.pd)

theorem locksHold_of_check {m : Mgmt} (h : locksCheck m = true) : LocksHold m := by
  simp only [locksCheck, Bool.and_eq_true, Bool.or_eq_true, Bool.not_eq_true', List.all_eq_true, List.mem_range,
    decide_eq_true_eq, decide_eq_false_iff_not] at h
  exact ⟨fun i hi hl => (h.1 i hi).resolve_left fun hn => hn hl,
    fun hs => h.2.resolve_left fun hn => by simp [hs] at hn⟩

def mgmtCheck (s : State) : Bool :=
  let m0 := s.mgmt .p0
  let m1 := s.mgmt .p1
  m0.inForceOrPending.all selfValidCheck && m1.inForceOrPending.all selfValidCheck &&
  (m0.inForceOrPending.all fun t => m1.inForceOrPending.all fun u => togetherCheck t u) && locksCheck m0 && locksCheck m1

theorem mgmtOk_of_check {s : State} (h : mgmtCheck s = true) : MgmtOk s := by
  simp only [mgmtCheck, Bool.and_eq_true, List.all_eq_true] at h
  obtain ⟨⟨⟨⟨h1, h2⟩, h3⟩, h4⟩, h5⟩ := h
  exact ⟨⟨fun t ht => selfValid_of_check (h1 t ht), fun t ht => selfValid_of_check (h2 t ht),
    fun t ht u hu => together_of_check (h3 t ht u hu)⟩, locksHold_of_check h4, locksHold_of_check h5⟩

/-! ### Ranges of table entries -/

def descriptorRanges (d : PanelDescriptor) : Bool :=
  (d.marker.all fun y => decide (y ≤ 1599)) && decide (
    (64 ≤ d.width ∧ d.width ≤ 2560) ∧ (64 ≤ d.activeLines ∧ d.activeLines ≤ 1600) ∧
    (200 ≤ d.linePeriod ∧ d.linePeriod ≤ 6000) ∧ d.stretchLimit ≤ 4095 ∧ d.prestartLead ≤ 255 ∧
    (4 ≤ d.quota ∧ d.quota ≤ 88) ∧ d.tolerance ≤ 255 ∧ d.staleLimit ≤ 15 ∧ d.sensePriority ≤ 3 ∧
    (20 ≤ d.burstLength ∧ d.burstLength ≤ 400) ∧ d.switchGap ≤ 255 ∧ d.setupGap ≤ 255 ∧ d.holdGap ≤ 255 ∧
    d.waitLimit ≤ 2000 ∧ (1 ≤ d.columns ∧ d.columns ≤ 64) ∧ (1 ≤ d.rows ∧ d.rows ≤ 48) ∧
    (1 ≤ d.pitchX ∧ d.pitchX ≤ 255) ∧ (1 ≤ d.pitchY ∧ d.pitchY ≤ 255) ∧
    (1 ≤ d.touchThreshold ∧ d.touchThreshold ≤ 32767) ∧ (1 ≤ d.releaseThreshold ∧ d.releaseThreshold ≤ 32767) ∧
    d.driftStep ≤ 255 ∧ (1 ≤ d.maxContacts ∧ d.maxContacts ≤ 16) ∧ d.noiseThreshold ≤ 65535 ∧
    (1 ≤ d.hopTrigger ∧ d.hopTrigger ≤ 15))

theorem descriptorInRange_of_check {d : PanelDescriptor} (h : descriptorRanges d = true) : d.InRange := by
  simp only [descriptorRanges, Bool.and_eq_true, decide_eq_true_eq] at h
  obtain ⟨hm, h⟩ := h
  constructor <;> first | (intro y hy; simpa [hy] using hm) | omega

def segmentRanges (e : Segment) : Bool :=
  match e.kind with
  | .drive => decide (1 ≤ e.lineCount.toNat ∧ e.lineCount.toNat ≤ 1600)
  | .blank => decide (1 ≤ e.lineCount.toNat ∧ e.lineCount.toNat ≤ 1023)
  | .sense => decide (1 ≤ e.groupCount.toNat ∧ e.groupCount.toNat ≤ 8 ∧ (e.yieldCode = 0#16 ∨ e.yieldCode = 1#16))
  | .stop => true

def hopRanges (h : Option Nat) : Bool := h.all fun n => decide (50 ≤ n ∧ n ≤ 500 ∧ n % 5 = 0)

def tablesRanges (t : Tables) : Bool :=
  descriptorRanges t.pd && t.timeline.toList.all segmentRanges &&
  (t.regions.toList.all fun r =>
    decide (r.x0 ≤ 2559 ∧ r.x1 ≤ 2559 ∧ r.y0 ≤ 1599 ∧ r.y1 ≤ 1599 ∧ r.firstBlock ≤ 63)) &&
  (t.groups.toList.all fun g => decide (g.row ≤ 47 ∧ g.col ≤ 63 ∧ 1 ≤ g.width ∧ g.width ≤ 32)) &&
  t.hops.toList.all hopRanges

theorem tablesInRange_of_check {t : Tables} (h : tablesRanges t = true) : t.InRange := by
  simp only [tablesRanges, Bool.and_eq_true, List.all_eq_true, decide_eq_true_eq] at h
  obtain ⟨⟨⟨⟨h1, h2⟩, h3⟩, h4⟩, h5⟩ := h
  refine ⟨descriptorInRange_of_check h1, fun e he => ?_, fun r hr => ⟨rfl, h3 r hr⟩, fun g hg => ⟨rfl, h4 g hg⟩,
    fun x hx => ?_⟩
  · have h := h2 e he
    unfold segmentRanges at h
    refine ⟨rfl, ?_⟩
    cases hk : e.kind <;> simp only [hk] at h ⊢ <;> exact of_decide_eq_true h
  · have h := h5 x hx
    cases x with
    | none => exact ⟨rfl, .inl rfl⟩
    | some n => exact ⟨rfl, .inr ⟨n, rfl, by simpa [hopRanges] using h⟩⟩

def rangesCheck (s : State) : Bool :=
  bothPanels fun p => tablesRanges (s.mgmt p).staged && tablesRanges (s.mgmt p).active

theorem rangesOk_of_check {s : State} (h : rangesCheck s = true) : RangesOk s := by
  simp only [rangesCheck, bothPanels_iff, Bool.and_eq_true] at h
  exact fun p => ⟨tablesInRange_of_check (h p).1, tablesInRange_of_check (h p).2⟩

/-! ### Stores, region states, pool, tickets and queues -/

def storesCheck (s : State) : Bool :=
  Memory.wf s.store && (s.store.all fun c => decide (c.1 < 64 * blockBytes)) &&
  bothPanels fun p => Sparse.wf Cell.reset (s.touch p).cells

theorem storesOk_of_check {s : State} (h : storesCheck s = true) : StoresOk s := by
  simp only [storesCheck, Bool.and_eq_true, List.all_eq_true, decide_eq_true_eq, bothPanels_iff] at h
  exact ⟨h.1.1, h.1.2, h.2 .p0, h.2 .p1⟩

/-- The region state of an entry that has one side alone (R53). -/
def imageCheck (r : Region) (st : RegionState) : Bool :=
  (!decide (r.valid = false ∨ r.mode = .window) || decide (st.front = .empty ∧ st.side = .first)) &&
  (!decide (r.valid = true ∧ r.mode = .fixed) || decide (st.side = .first))

def imagesCheck (s : State) : Bool :=
  bothPanels fun p => (List.range 16).all fun i =>
    match (s.tables p).regions[i]?, (s.composer p).regions[i]? with
    | some r, some st => imageCheck r st
    | _, _ => true

theorem imagesOk_of_check {s : State} (h : imagesCheck s = true) : ImagesOk s := by
  simp only [imagesCheck, bothPanels_iff, List.all_eq_true, List.mem_range] at h
  have key : ∀ (p : Panel) (i : Nat) (r : Region) (st : RegionState), (s.tables p).regions[i]? = some r →
      (s.composer p).regions[i]? = some st → imageCheck r st = true := by
    intro p i r st hr hst
    have hi : i < 16 := by
      rcases Nat.lt_or_ge i 16 with h | h
      · exact h
      · simp [Vector.getElem?_eq_none h] at hr
    simpa [hr, hst] using h p i hi
  simp only [imageCheck, Bool.and_eq_true, Bool.or_eq_true, Bool.not_eq_true', decide_eq_true_eq,
    decide_eq_false_iff_not] at key
  exact ⟨fun p i r st hr hst hm => (key p i r st hr hst).1.resolve_left fun hn => hn hm,
    fun p i r st hr hst hv hm => (key p i r st hr hst).2.resolve_left fun hn => hn ⟨hv, hm⟩⟩

def poolCheck (s : State) : Bool :=
  decide (s.freeSlots + s.slotsInUse = Config.poolSlots) &&
  bothPanels fun p => decide ((s.ingress p).queue.length ≤ (s.pd p).quota)

theorem poolOk_of_check {s : State} (h : poolCheck s = true) : PoolOk s := by
  simp only [poolCheck, Bool.and_eq_true, decide_eq_true_eq, bothPanels_iff] at h
  exact ⟨h.1, h.2⟩

def afterCheck (a b : LineSlot) : Bool :=
  ahead b.frame a.frame || decide (b.frame = a.frame ∧ a.lineNo < b.lineNo)

theorem after_of_check {a b : LineSlot} (h : afterCheck a b = true) : a.after b := by
  simpa only [LineSlot.after, afterCheck, Bool.or_eq_true, decide_eq_true_eq] using h

def ticketsCheck (g : Ingress) : Bool :=
  decide (g.waiting.length ≤ 2) && (g.tickets.dropLast.all fun t => decide (t.state = .closed)) &&
  adjacentCheck (fun a b => ahead b.frame a.frame) g.tickets &&
  (match g.scan with | none => true | some t => decide (g.lastScan = some t.frame))

theorem ticketsOk_of_check {g : Ingress} (h : ticketsCheck g = true) : TicketsOk g := by
  simp only [ticketsCheck, Bool.and_eq_true, List.all_eq_true, decide_eq_true_eq] at h
  obtain ⟨⟨⟨h1, h2⟩, h3⟩, h4⟩ := h
  exact ⟨h1, h2, adjacent_of_check (fun _ _ => id) _ h3, fun t ht => by simpa [ht] using h4⟩

def queueCheck (g : Ingress) : Bool :=
  adjacentCheck afterCheck g.queue && (g.queue.all fun e => g.tickets.any fun t => decide (t.frame = e.frame)) &&
  pairwiseCheck (fun a b => decide (g.ticketPlace a.frame ≤ g.ticketPlace b.frame)) g.queue

theorem queueOk_of_check {g : Ingress} (h : queueCheck g = true) : QueueOk g := by
  simp only [queueCheck, Bool.and_eq_true, List.all_eq_true, List.any_eq_true, decide_eq_true_eq] at h
  exact ⟨adjacent_of_check (fun _ _ => after_of_check) _ h.1.1, h.1.2,
    pairwise_of_check (fun _ _ hab => of_decide_eq_true hab) _ h.2⟩

def ingressCheck (s : State) : Bool :=
  bothPanels fun p => ticketsCheck (s.ingress p) && queueCheck (s.ingress p)

theorem ingressOk_of_check {s : State} (h : ingressCheck s = true) : IngressOk s := by
  simp only [ingressCheck, Bool.and_eq_true, bothPanels_iff] at h
  exact ⟨fun p => ticketsOk_of_check (h p).1, fun p => queueOk_of_check (h p).2⟩

/-! ### Panels and sense -/

def runCheck (x : PanelState) : Bool :=
  let q := x.seq
  (decide (q.run ≠ .syncing) || !q.locked) && (!decide (q.run = .running ∨ q.run = .stretch) || q.locked) &&
  (q.segment.isSome == decide (q.run = .running)) &&
  (decide (q.run = .stretch) || decide (q.outcome = .none ∧ q.deferred = false)) && (!q.cutShort || decide (q.run = .syncing)) &&
  (decide (q.run ≠ .disabled) || decide (x.ingress = Ingress.reset ∧ x.sup = Supervision.reset))

theorem runOk_of_check {x : PanelState} (h : runCheck x = true) : RunOk x := by
  simp only [runCheck, Bool.and_eq_true, Bool.or_eq_true, Bool.not_eq_true', decide_eq_true_eq,
    decide_eq_false_iff_not, beq_iff_eq] at h
  obtain ⟨⟨⟨⟨⟨h1, h2⟩, h3⟩, h4⟩, h6⟩, h5⟩ := h
  exact ⟨fun hr => h1.resolve_left fun hn => hn hr, fun hr => h2.resolve_left fun hn => hn hr,
    by simp [h3], fun hr => h4.resolve_left hr, fun hc => h6.resolve_left (by simp [hc]), fun hr => h5.resolve_left fun hn => hn hr⟩

def claimCheck (s : State) (p : Panel) : Bool :=
  let c := s.claim p
  let q := s.seq p
  (c.request.isNone || c.window.isNone) &&
  decide (s.arb.heldBy p = (match c.window with | none => 0 | some w => w.need)) &&
  (match c.window with
    | none => true
    | some w => decide (w.need = 1 ∨ w.need = 2) && (w.burst.isSome == decide (q.phase = .burst))) &&
  (match c.request with
    | none => true
    | some r => decide (r.need = 1 ∨ r.need = 2) && match r.cls with
      | .timeline => decide (q.run = .running) && r.deadline.isSome
      | .free => decide (q.run = .stretch ∧ q.outcome = .none) && r.deadline.isNone) &&
  (c.window.isSome == q.phase.holds) &&
  (decide (q.phase = .request) == decide (c.request.map Request.cls = some .timeline)) &&
  (decide (q.run ≠ .disabled ∧ q.run ≠ .syncing) || decide (c = SenseClaim.reset)) &&
  (decide (q.run ≠ .running) || decide (c = SenseClaim.reset) ||
    decide ((s.currentSegment p).map Segment.kind = some .sense))

theorem claimOk_of_check {s : State} {p : Panel} (h : claimCheck s p = true) : ClaimOk s p := by
  simp only [claimCheck, Bool.and_eq_true, Bool.or_eq_true, decide_eq_true_eq, beq_iff_eq,
    Option.isNone_iff_eq_none] at h
  obtain ⟨⟨⟨⟨⟨⟨⟨h1, h2⟩, h3⟩, h4⟩, h5⟩, h6⟩, h7⟩, h8⟩ := h
  have h6' : (s.seq p).phase = .request ↔ (s.claim p).request.map Request.cls = some .timeline := by
    constructor
    · intro hp; simpa [hp] using h6.symm
    · intro hp; simpa [hp] using h6
  refine ⟨h1, h2, fun w hw => ?_, fun r hr => ?_, by simp [h5], fun w hw => ?_, ?_, fun r hr hc => ?_,
    fun r hr hc => ?_, fun hr => ?_, fun hr hc => ?_⟩
  · simp only [hw, Bool.and_eq_true, decide_eq_true_eq] at h3; exact h3.1
  · simp only [hr, Bool.and_eq_true, decide_eq_true_eq] at h4; exact h4.1
  · simp only [hw, Bool.and_eq_true, beq_iff_eq] at h3; simp [h3.2]
  · rw [h6']; cases hq : (s.claim p).request <;> simp
  · simp only [hr, hc, Bool.and_eq_true, decide_eq_true_eq] at h4; exact h4.2
  · simp only [hr, hc, Bool.and_eq_true, decide_eq_true_eq, Option.isNone_iff_eq_none] at h4
    exact ⟨h4.2.1.1, h4.2.1.2, h4.2.2⟩
  · exact h7.resolve_left fun hn => hr.elim hn.1 hn.2
  · exact h8.resolve_left fun hn => hn.elim (fun hx => hx hr) hc

def reservationCheck (s : State) : Bool :=
  match s.arb.reservation with
  | none => true
  | some v => s.waitsForTwo v.panel && (v.a || v.b) && (!v.a || s.arb.a.holder.isNone) &&
      (!v.b || s.arb.b.holder.isNone)

theorem reservationOk_of_check {s : State} (h : reservationCheck s = true) : ReservationOk s := by
  unfold reservationCheck at h
  have key : ∀ v, s.arb.reservation = some v → s.waitsForTwo v.panel = true ∧ (v.a = true ∨ v.b = true) ∧
      (v.a = true → s.arb.a.holder = none) ∧ (v.b = true → s.arb.b.holder = none) := by
    intro v hv
    simp only [hv, Bool.and_eq_true, Bool.or_eq_true, Bool.not_eq_true', Option.isNone_iff_eq_none] at h
    obtain ⟨⟨⟨h1, h2⟩, h3⟩, h4⟩ := h
    exact ⟨h1, h2, fun ha => h3.resolve_left (by simp [ha]), fun hb => h4.resolve_left (by simp [hb])⟩
  exact ⟨fun v hv => (key v hv).1, fun v hv => (key v hv).2.1, fun v hv => (key v hv).2.2.1,
    fun v hv => (key v hv).2.2.2⟩

def senseCheck (s : State) : Bool :=
  bothPanels (claimCheck s) && reservationCheck s && bothPanels fun p => !s.canGrant p

theorem senseOk_of_check {s : State} (h : senseCheck s = true) : SenseOk s := by
  simp only [senseCheck, Bool.and_eq_true, bothPanels_iff, Bool.not_eq_true'] at h
  exact ⟨fun p => claimOk_of_check (h.1.1 p), reservationOk_of_check h.1.2, h.2⟩

/-! ### The head link and the notices -/

def capsCheck (l : Link) : Bool :=
  decide (l.queue.countP OutParcel.isReply = l.replyCount) && decide (l.replyCount ≤ Config.replyCap) &&
  decide (l.queue.countP OutParcel.isNotice ≤ 1) && decide (l.queue.countP OutParcel.isCapture ≤ Config.captureCap) &&
  bothPanels (fun p => decide (l.unsent.countP (OutParcel.isTouchOf p) ≤ 1)) &&
  bothPanels (fun p => decide (l.unsent.countP (OutParcel.isCheckOf p) ≤ 1)) &&
  (l.sending.isNone || decide (l.queue ≠ []))

theorem queueCaps_of_check {l : Link} (h : capsCheck l = true) : QueueCaps l := by
  simp only [capsCheck, Bool.and_eq_true, Bool.or_eq_true, decide_eq_true_eq, bothPanels_iff,
    Option.isNone_iff_eq_none] at h
  obtain ⟨⟨⟨⟨⟨⟨h1, h2⟩, h3⟩, h4⟩, h5⟩, h6⟩, h7⟩ := h
  exact ⟨h1, h2, h3, h4, h5, h6, fun hs => h7.resolve_left fun hn => by simp [hn] at hs⟩

def flagCheck (s : State) (f : FlagId) : Bool :=
  let x := s.flag f
  (decide (x.state = .inQueue) == s.link.queue.any (OutParcel.isNoticeOf f)) &&
  (decide (x.state ≠ .clear) || decide (x.count = 0)) &&
  (!decide (x.state = .pending ∨ x.state = .inQueue) || decide (1 ≤ x.count)) && decide (x.count ≤ 255) &&
  decide (s.notices.prio f.source ≤ 3) && (decide (x.state ≠ .announced) || f.source.sticky)

def carriedCheck (s : State) : OutParcel → Bool
  | .notice n => n.orphan || decide (n.count ≤ (s.flag n.flag).count)
  | .reply _ => true
  | .touch _ => true
  | .check _ => true
  | .capture _ => true

theorem mem_flagId_all (f : FlagId) : f ∈ FlagId.all := by
  rcases f with src | ⟨src, p⟩ <;> cases src <;> (try cases p) <;> decide

def flagsCheck (s : State) : Bool :=
  (s.notices.able == decide (s.link.state = .up ∧ s.link.queue.countP OutParcel.isNotice = 0)) &&
  (!s.notices.able || decide (s.notices.choose = none)) && FlagId.all.all (flagCheck s) &&
  s.link.queue.all (carriedCheck s)

theorem flagsOk_of_check {s : State} (h : flagsCheck s = true) : FlagsOk s := by
  simp only [flagsCheck, Bool.and_eq_true, Bool.or_eq_true, Bool.not_eq_true', List.all_eq_true, beq_iff_eq,
    decide_eq_true_eq] at h
  obtain ⟨⟨⟨h1, h2⟩, h3⟩, h4⟩ := h
  have key : ∀ f, flagCheck s f = true := fun f => h3 f (mem_flagId_all f)
  simp only [flagCheck, Bool.and_eq_true, Bool.or_eq_true, Bool.not_eq_true', beq_iff_eq, decide_eq_true_eq,
    decide_eq_false_iff_not] at key
  refine ⟨by simp [h1], fun ha => h2.resolve_left (by simp [ha]), fun f => ?_, fun n hn ho => ?_, fun f hf => ?_,
    fun f hf => ?_, fun f => (key f).1.1.2, fun src => ?_, fun f hf => ?_⟩
  · have := (key f).1.1.1.1.1
    rw [← this]; simp
  · have := h4 _ hn
    simpa [carriedCheck, ho] using this
  · exact (key f).1.1.1.1.2.resolve_left fun hn => hn hf
  · exact (key f).1.1.1.2.resolve_left fun hn => hn hf
  · cases src with
    | part src => exact (key (.part src)).1.2
    | panel src => exact (key (.panel src .p0)).1.2
  · exact (key f).2.resolve_left fun hn => hn hf

def linkCheck (s : State) : Bool :=
  capsCheck s.link && flagsCheck s &&
  (decide (s.link.state = .up) || decide (s.link.queue = [] ∧ s.link.sending = none ∧ s.link.rx = .hunt))

theorem linkOk_of_check {s : State} (h : linkCheck s = true) : LinkOk s := by
  simp only [linkCheck, Bool.and_eq_true, Bool.or_eq_true, decide_eq_true_eq] at h
  exact ⟨queueCaps_of_check h.1.1, flagsOk_of_check h.1.2, fun hn => h.2.resolve_left hn⟩

/-! ### All of them -/

/-- The state has every invariant that holds in each state a run reaches, but the ranges of table entries. -/
structure InOrder (s : State) : Prop where
  mgmt    : MgmtOk s
  stores  : StoresOk s
  images  : ImagesOk s
  pool    : PoolOk s
  ingress : IngressOk s
  run     : ∀ p, RunOk (s.panel p)
  sense   : SenseOk s
  link    : LinkOk s

def orderCheck (s : State) : Bool :=
  mgmtCheck s && storesCheck s && imagesCheck s && poolCheck s && ingressCheck s && bothPanels (fun p => runCheck (s.panel p)) &&
  senseCheck s && linkCheck s

theorem inOrder_of_check {s : State} (h : orderCheck s = true) : InOrder s := by
  simp only [orderCheck, Bool.and_eq_true, bothPanels_iff] at h
  obtain ⟨⟨⟨⟨⟨⟨⟨h1, h2⟩, h8⟩, h3⟩, h4⟩, h5⟩, h6⟩, h7⟩ := h
  exact ⟨mgmtOk_of_check h1, storesOk_of_check h2, imagesOk_of_check h8, poolOk_of_check h3, ingressOk_of_check h4,
    fun p => runOk_of_check (h5 p), senseOk_of_check h6, linkOk_of_check h7⟩

end Sys2Proof.Machine
end

