-- ==== Sys2Proof/Laws/State.lean ====
section
/-! SUPPORT. What each update of the state does to each field: one lemma per field per update. -/

namespace Sys2Proof.Machine

variable (p q : Panel) (s : State)

theorem Panel.eq_or_other : q = p ∨ q = p.other := by cases p <;> cases q <;> decide

@[simp] theorem Panel.other_ne : p.other ≠ p := by cases p <;> decide
@[simp] theorem Panel.ne_other : p ≠ p.other := by cases p <;> decide
@[simp] theorem Panel.other_other : p.other.other = p := by cases p <;> rfl

/-! ### Replacing a panel -/

@[simp] theorem panel_setPanel_self (x : PanelState) : (s.setPanel p x).panel p = x := by cases p <;> rfl
theorem panel_setPanel_of_ne (x : PanelState) (h : q ≠ p) : (s.setPanel p x).panel q = s.panel q := by
  cases p <;> cases q <;> first | rfl | exact absurd rfl h
@[simp] theorem panel_setPanel_other (x : PanelState) : (s.setPanel p x).panel p.other = s.panel p.other := by
  cases p <;> rfl

/-! ### modMgmt -/

section
variable (f : Mgmt → Mgmt)

@[simp] theorem mgmt_modMgmt_self : (modMgmt p f s).mgmt p = f (s.mgmt p) := by cases p <;> rfl
@[simp] theorem mgmt_modMgmt_other : (modMgmt p f s).mgmt p.other = s.mgmt p.other := by cases p <;> rfl
theorem mgmt_modMgmt : (modMgmt p f s).mgmt q = if q = p then f (s.mgmt q) else s.mgmt q := by
  cases p <;> cases q <;> rfl
@[simp] theorem seq_modMgmt : (modMgmt p f s).seq q = s.seq q := by cases p <;> cases q <;> rfl
@[simp] theorem ingress_modMgmt : (modMgmt p f s).ingress q = s.ingress q := by cases p <;> cases q <;> rfl
@[simp] theorem composer_modMgmt : (modMgmt p f s).composer q = s.composer q := by cases p <;> cases q <;> rfl
@[simp] theorem sup_modMgmt : (modMgmt p f s).sup q = s.sup q := by cases p <;> cases q <;> rfl
@[simp] theorem claim_modMgmt : (modMgmt p f s).claim q = s.claim q := by cases p <;> cases q <;> rfl
@[simp] theorem touch_modMgmt : (modMgmt p f s).touch q = s.touch q := by cases p <;> cases q <;> rfl
@[simp] theorem resetPin_modMgmt : (modMgmt p f s).resetPin = s.resetPin := by cases p <;> rfl
@[simp] theorem link_modMgmt : (modMgmt p f s).link = s.link := by cases p <;> rfl
@[simp] theorem notices_modMgmt : (modMgmt p f s).notices = s.notices := by cases p <;> rfl
@[simp] theorem freeSlots_modMgmt : (modMgmt p f s).freeSlots = s.freeSlots := by cases p <;> rfl
@[simp] theorem store_modMgmt : (modMgmt p f s).store = s.store := by cases p <;> rfl
@[simp] theorem arb_modMgmt : (modMgmt p f s).arb = s.arb := by cases p <;> rfl
@[simp] theorem openOrders_modMgmt : (modMgmt p f s).openOrders = s.openOrders := by cases p <;> rfl
@[simp] theorem pending_modMgmt : (modMgmt p f s).pending = s.pending := by cases p <;> rfl

end

/-! ### modSeq -/

section
variable (f : Sequencer → Sequencer)

@[simp] theorem seq_modSeq_self : (modSeq p f s).seq p = f (s.seq p) := by cases p <;> rfl
@[simp] theorem seq_modSeq_other : (modSeq p f s).seq p.other = s.seq p.other := by cases p <;> rfl
theorem seq_modSeq : (modSeq p f s).seq q = if q = p then f (s.seq q) else s.seq q := by
  cases p <;> cases q <;> rfl
@[simp] theorem mgmt_modSeq : (modSeq p f s).mgmt q = s.mgmt q := by cases p <;> cases q <;> rfl
@[simp] theorem ingress_modSeq : (modSeq p f s).ingress q = s.ingress q := by cases p <;> cases q <;> rfl
@[simp] theorem composer_modSeq : (modSeq p f s).composer q = s.composer q := by cases p <;> cases q <;> rfl
@[simp] theorem sup_modSeq : (modSeq p f s).sup q = s.sup q := by cases p <;> cases q <;> rfl
@[simp] theorem claim_modSeq : (modSeq p f s).claim q = s.claim q := by cases p <;> cases q <;> rfl
@[simp] theorem touch_modSeq : (modSeq p f s).touch q = s.touch q := by cases p <;> cases q <;> rfl
@[simp] theorem resetPin_modSeq : (modSeq p f s).resetPin = s.resetPin := by cases p <;> rfl
@[simp] theorem link_modSeq : (modSeq p f s).link = s.link := by cases p <;> rfl
@[simp] theorem notices_modSeq : (modSeq p f s).notices = s.notices := by cases p <;> rfl
@[simp] theorem freeSlots_modSeq : (modSeq p f s).freeSlots = s.freeSlots := by cases p <;> rfl
@[simp] theorem store_modSeq : (modSeq p f s).store = s.store := by cases p <;> rfl
@[simp] theorem arb_modSeq : (modSeq p f s).arb = s.arb := by cases p <;> rfl
@[simp] theorem openOrders_modSeq : (modSeq p f s).openOrders = s.openOrders := by cases p <;> rfl
@[simp] theorem pending_modSeq : (modSeq p f s).pending = s.pending := by cases p <;> rfl
@[simp] theorem tables_modSeq : (modSeq p f s).tables q = s.tables q := by cases p <;> cases q <;> rfl
@[simp] theorem pd_modSeq : (modSeq p f s).pd q = s.pd q := by cases p <;> cases q <;> rfl

end

/-! ### modIngress -/

section
variable (f : Ingress → Ingress)

@[simp] theorem ingress_modIngress_self : (modIngress p f s).ingress p = f (s.ingress p) := by cases p <;> rfl
@[simp] theorem ingress_modIngress_other : (modIngress p f s).ingress p.other = s.ingress p.other := by cases p <;> rfl
theorem ingress_modIngress : (modIngress p f s).ingress q = if q = p then f (s.ingress q) else s.ingress q := by
  cases p <;> cases q <;> rfl
@[simp] theorem mgmt_modIngress : (modIngress p f s).mgmt q = s.mgmt q := by cases p <;> cases q <;> rfl
@[simp] theorem seq_modIngress : (modIngress p f s).seq q = s.seq q := by cases p <;> cases q <;> rfl
@[simp] theorem composer_modIngress : (modIngress p f s).composer q = s.composer q := by cases p <;> cases q <;> rfl
@[simp] theorem sup_modIngress : (modIngress p f s).sup q = s.sup q := by cases p <;> cases q <;> rfl
@[simp] theorem claim_modIngress : (modIngress p f s).claim q = s.claim q := by cases p <;> cases q <;> rfl
@[simp] theorem touch_modIngress : (modIngress p f s).touch q = s.touch q := by cases p <;> cases q <;> rfl
@[simp] theorem resetPin_modIngress : (modIngress p f s).resetPin = s.resetPin := by cases p <;> rfl
@[simp] theorem link_modIngress : (modIngress p f s).link = s.link := by cases p <;> rfl
@[simp] theorem notices_modIngress : (modIngress p f s).notices = s.notices := by cases p <;> rfl
@[simp] theorem freeSlots_modIngress : (modIngress p f s).freeSlots = s.freeSlots := by cases p <;> rfl
@[simp] theorem store_modIngress : (modIngress p f s).store = s.store := by cases p <;> rfl
@[simp] theorem arb_modIngress : (modIngress p f s).arb = s.arb := by cases p <;> rfl
@[simp] theorem openOrders_modIngress : (modIngress p f s).openOrders = s.openOrders := by cases p <;> rfl
@[simp] theorem pending_modIngress : (modIngress p f s).pending = s.pending := by cases p <;> rfl
@[simp] theorem tables_modIngress : (modIngress p f s).tables q = s.tables q := by cases p <;> cases q <;> rfl
@[simp] theorem pd_modIngress : (modIngress p f s).pd q = s.pd q := by cases p <;> cases q <;> rfl

end

/-! ### modComposer -/

section
variable (f : Composer → Composer)

@[simp] theorem composer_modComposer_self : (modComposer p f s).composer p = f (s.composer p) := by cases p <;> rfl
@[simp] theorem composer_modComposer_other : (modComposer p f s).composer p.other = s.composer p.other := by cases p <;> rfl
theorem composer_modComposer : (modComposer p f s).composer q = if q = p then f (s.composer q) else s.composer q := by
  cases p <;> cases q <;> rfl
@[simp] theorem mgmt_modComposer : (modComposer p f s).mgmt q = s.mgmt q := by cases p <;> cases q <;> rfl
@[simp] theorem seq_modComposer : (modComposer p f s).seq q = s.seq q := by cases p <;> cases q <;> rfl
@[simp] theorem ingress_modComposer : (modComposer p f s).ingress q = s.ingress q := by cases p <;> cases q <;> rfl
@[simp] theorem sup_modComposer : (modComposer p f s).sup q = s.sup q := by cases p <;> cases q <;> rfl
@[simp] theorem claim_modComposer : (modComposer p f s).claim q = s.claim q := by cases p <;> cases q <;> rfl
@[simp] theorem touch_modComposer : (modComposer p f s).touch q = s.touch q := by cases p <;> cases q <;> rfl
@[simp] theorem resetPin_modComposer : (modComposer p f s).resetPin = s.resetPin := by cases p <;> rfl
@[simp] theorem link_modComposer : (modComposer p f s).link = s.link := by cases p <;> rfl
@[simp] theorem notices_modComposer : (modComposer p f s).notices = s.notices := by cases p <;> rfl
@[simp] theorem freeSlots_modComposer : (modComposer p f s).freeSlots = s.freeSlots := by cases p <;> rfl
@[simp] theorem store_modComposer : (modComposer p f s).store = s.store := by cases p <;> rfl
@[simp] theorem arb_modComposer : (modComposer p f s).arb = s.arb := by cases p <;> rfl
@[simp] theorem openOrders_modComposer : (modComposer p f s).openOrders = s.openOrders := by cases p <;> rfl
@[simp] theorem pending_modComposer : (modComposer p f s).pending = s.pending := by cases p <;> rfl
@[simp] theorem tables_modComposer : (modComposer p f s).tables q = s.tables q := by cases p <;> cases q <;> rfl
@[simp] theorem pd_modComposer : (modComposer p f s).pd q = s.pd q := by cases p <;> cases q <;> rfl

end

/-! ### modSup -/

section
variable (f : Supervision → Supervision)

@[simp] theorem sup_modSup_self : (modSup p f s).sup p = f (s.sup p) := by cases p <;> rfl
@[simp] theorem sup_modSup_other : (modSup p f s).sup p.other = s.sup p.other := by cases p <;> rfl
theorem sup_modSup : (modSup p f s).sup q = if q = p then f (s.sup q) else s.sup q := by
  cases p <;> cases q <;> rfl
@[simp] theorem mgmt_modSup : (modSup p f s).mgmt q = s.mgmt q := by cases p <;> cases q <;> rfl
@[simp] theorem seq_modSup : (modSup p f s).seq q = s.seq q := by cases p <;> cases q <;> rfl
@[simp] theorem ingress_modSup : (modSup p f s).ingress q = s.ingress q := by cases p <;> cases q <;> rfl
@[simp] theorem composer_modSup : (modSup p f s).composer q = s.composer q := by cases p <;> cases q <;> rfl
@[simp] theorem claim_modSup : (modSup p f s).claim q = s.claim q := by cases p <;> cases q <;> rfl
@[simp] theorem touch_modSup : (modSup p f s).touch q = s.touch q := by cases p <;> cases q <;> rfl
@[simp] theorem resetPin_modSup : (modSup p f s).resetPin = s.resetPin := by cases p <;> rfl
@[simp] theorem link_modSup : (modSup p f s).link = s.link := by cases p <;> rfl
@[simp] theorem notices_modSup : (modSup p f s).notices = s.notices := by cases p <;> rfl
@[simp] theorem freeSlots_modSup : (modSup p f s).freeSlots = s.freeSlots := by cases p <;> rfl
@[simp] theorem store_modSup : (modSup p f s).store = s.store := by cases p <;> rfl
@[simp] theorem arb_modSup : (modSup p f s).arb = s.arb := by cases p <;> rfl
@[simp] theorem openOrders_modSup : (modSup p f s).openOrders = s.openOrders := by cases p <;> rfl
@[simp] theorem pending_modSup : (modSup p f s).pending = s.pending := by cases p <;> rfl
@[simp] theorem tables_modSup : (modSup p f s).tables q = s.tables q := by cases p <;> cases q <;> rfl
@[simp] theorem pd_modSup : (modSup p f s).pd q = s.pd q := by cases p <;> cases q <;> rfl

end

/-! ### modClaim -/

section
variable (f : SenseClaim → SenseClaim)

@[simp] theorem claim_modClaim_self : (modClaim p f s).claim p = f (s.claim p) := by cases p <;> rfl
@[simp] theorem claim_modClaim_other : (modClaim p f s).claim p.other = s.claim p.other := by cases p <;> rfl
theorem claim_modClaim : (modClaim p f s).claim q = if q = p then f (s.claim q) else s.claim q := by
  cases p <;> cases q <;> rfl
@[simp] theorem mgmt_modClaim : (modClaim p f s).mgmt q = s.mgmt q := by cases p <;> cases q <;> rfl
@[simp] theorem seq_modClaim : (modClaim p f s).seq q = s.seq q := by cases p <;> cases q <;> rfl
@[simp] theorem ingress_modClaim : (modClaim p f s).ingress q = s.ingress q := by cases p <;> cases q <;> rfl
@[simp] theorem composer_modClaim : (modClaim p f s).composer q = s.composer q := by cases p <;> cases q <;> rfl
@[simp] theorem sup_modClaim : (modClaim p f s).sup q = s.sup q := by cases p <;> cases q <;> rfl
@[simp] theorem touch_modClaim : (modClaim p f s).touch q = s.touch q := by cases p <;> cases q <;> rfl
@[simp] theorem resetPin_modClaim : (modClaim p f s).resetPin = s.resetPin := by cases p <;> rfl
@[simp] theorem link_modClaim : (modClaim p f s).link = s.link := by cases p <;> rfl
@[simp] theorem notices_modClaim : (modClaim p f s).notices = s.notices := by cases p <;> rfl
@[simp] theorem freeSlots_modClaim : (modClaim p f s).freeSlots = s.freeSlots := by cases p <;> rfl
@[simp] theorem store_modClaim : (modClaim p f s).store = s.store := by cases p <;> rfl
@[simp] theorem arb_modClaim : (modClaim p f s).arb = s.arb := by cases p <;> rfl
@[simp] theorem openOrders_modClaim : (modClaim p f s).openOrders = s.openOrders := by cases p <;> rfl
@[simp] theorem pending_modClaim : (modClaim p f s).pending = s.pending := by cases p <;> rfl
@[simp] theorem tables_modClaim : (modClaim p f s).tables q = s.tables q := by cases p <;> cases q <;> rfl
@[simp] theorem pd_modClaim : (modClaim p f s).pd q = s.pd q := by cases p <;> cases q <;> rfl

end

/-! ### modTouch -/

section
variable (f : Touch → Touch)

@[simp] theorem touch_modTouch_self : (modTouch p f s).touch p = f (s.touch p) := by cases p <;> rfl
@[simp] theorem touch_modTouch_other : (modTouch p f s).touch p.other = s.touch p.other := by cases p <;> rfl
theorem touch_modTouch : (modTouch p f s).touch q = if q = p then f (s.touch q) else s.touch q := by
  cases p <;> cases q <;> rfl
@[simp] theorem mgmt_modTouch : (modTouch p f s).mgmt q = s.mgmt q := by cases p <;> cases q <;> rfl
@[simp] theorem seq_modTouch : (modTouch p f s).seq q = s.seq q := by cases p <;> cases q <;> rfl
@[simp] theorem ingress_modTouch : (modTouch p f s).ingress q = s.ingress q := by cases p <;> cases q <;> rfl
@[simp] theorem composer_modTouch : (modTouch p f s).composer q = s.composer q := by cases p <;> cases q <;> rfl
@[simp] theorem sup_modTouch : (modTouch p f s).sup q = s.sup q := by cases p <;> cases q <;> rfl
@[simp] theorem claim_modTouch : (modTouch p f s).claim q = s.claim q := by cases p <;> cases q <;> rfl
@[simp] theorem resetPin_modTouch : (modTouch p f s).resetPin = s.resetPin := by cases p <;> rfl
@[simp] theorem link_modTouch : (modTouch p f s).link = s.link := by cases p <;> rfl
@[simp] theorem notices_modTouch : (modTouch p f s).notices = s.notices := by cases p <;> rfl
@[simp] theorem freeSlots_modTouch : (modTouch p f s).freeSlots = s.freeSlots := by cases p <;> rfl
@[simp] theorem store_modTouch : (modTouch p f s).store = s.store := by cases p <;> rfl
@[simp] theorem arb_modTouch : (modTouch p f s).arb = s.arb := by cases p <;> rfl
@[simp] theorem openOrders_modTouch : (modTouch p f s).openOrders = s.openOrders := by cases p <;> rfl
@[simp] theorem pending_modTouch : (modTouch p f s).pending = s.pending := by cases p <;> rfl
@[simp] theorem tables_modTouch : (modTouch p f s).tables q = s.tables q := by cases p <;> cases q <;> rfl
@[simp] theorem pd_modTouch : (modTouch p f s).pd q = s.pd q := by cases p <;> cases q <;> rfl

end

/-! ### modLink -/

section
variable (f : Link → Link)

@[simp] theorem link_modLink : (modLink f s).link = f s.link := rfl
@[simp] theorem panel_modLink : (modLink f s).panel q = s.panel q := by cases q <;> rfl
@[simp] theorem mgmt_modLink : (modLink f s).mgmt q = s.mgmt q := by cases q <;> rfl
@[simp] theorem seq_modLink : (modLink f s).seq q = s.seq q := by cases q <;> rfl
@[simp] theorem ingress_modLink : (modLink f s).ingress q = s.ingress q := by cases q <;> rfl
@[simp] theorem composer_modLink : (modLink f s).composer q = s.composer q := by cases q <;> rfl
@[simp] theorem sup_modLink : (modLink f s).sup q = s.sup q := by cases q <;> rfl
@[simp] theorem claim_modLink : (modLink f s).claim q = s.claim q := by cases q <;> rfl
@[simp] theorem touch_modLink : (modLink f s).touch q = s.touch q := by cases q <;> rfl
@[simp] theorem tables_modLink : (modLink f s).tables q = s.tables q := by cases q <;> rfl
@[simp] theorem pd_modLink : (modLink f s).pd q = s.pd q := by cases q <;> rfl
@[simp] theorem resetPin_modLink : (modLink f s).resetPin = s.resetPin := rfl
@[simp] theorem notices_modLink : (modLink f s).notices = s.notices := rfl
@[simp] theorem freeSlots_modLink : (modLink f s).freeSlots = s.freeSlots := rfl
@[simp] theorem store_modLink : (modLink f s).store = s.store := rfl
@[simp] theorem arb_modLink : (modLink f s).arb = s.arb := rfl
@[simp] theorem openOrders_modLink : (modLink f s).openOrders = s.openOrders := rfl
@[simp] theorem pending_modLink : (modLink f s).pending = s.pending := rfl

end

/-! ### modNotices -/

section
variable (f : NoticeUnit → NoticeUnit)

@[simp] theorem notices_modNotices : (modNotices f s).notices = f s.notices := rfl
@[simp] theorem panel_modNotices : (modNotices f s).panel q = s.panel q := by cases q <;> rfl
@[simp] theorem mgmt_modNotices : (modNotices f s).mgmt q = s.mgmt q := by cases q <;> rfl
@[simp] theorem seq_modNotices : (modNotices f s).seq q = s.seq q := by cases q <;> rfl
@[simp] theorem ingress_modNotices : (modNotices f s).ingress q = s.ingress q := by cases q <;> rfl
@[simp] theorem composer_modNotices : (modNotices f s).composer q = s.composer q := by cases q <;> rfl
@[simp] theorem sup_modNotices : (modNotices f s).sup q = s.sup q := by cases q <;> rfl
@[simp] theorem claim_modNotices : (modNotices f s).claim q = s.claim q := by cases q <;> rfl
@[simp] theorem touch_modNotices : (modNotices f s).touch q = s.touch q := by cases q <;> rfl
@[simp] theorem tables_modNotices : (modNotices f s).tables q = s.tables q := by cases q <;> rfl
@[simp] theorem pd_modNotices : (modNotices f s).pd q = s.pd q := by cases q <;> rfl
@[simp] theorem resetPin_modNotices : (modNotices f s).resetPin = s.resetPin := rfl
@[simp] theorem link_modNotices : (modNotices f s).link = s.link := rfl
@[simp] theorem freeSlots_modNotices : (modNotices f s).freeSlots = s.freeSlots := rfl
@[simp] theorem store_modNotices : (modNotices f s).store = s.store := rfl
@[simp] theorem arb_modNotices : (modNotices f s).arb = s.arb := rfl
@[simp] theorem openOrders_modNotices : (modNotices f s).openOrders = s.openOrders := rfl
@[simp] theorem pending_modNotices : (modNotices f s).pending = s.pending := rfl

end

/-! ### modArb -/

section
variable (f : Arbiter → Arbiter)

@[simp] theorem arb_modArb : (modArb f s).arb = f s.arb := rfl
@[simp] theorem panel_modArb : (modArb f s).panel q = s.panel q := by cases q <;> rfl
@[simp] theorem mgmt_modArb : (modArb f s).mgmt q = s.mgmt q := by cases q <;> rfl
@[simp] theorem seq_modArb : (modArb f s).seq q = s.seq q := by cases q <;> rfl
@[simp] theorem ingress_modArb : (modArb f s).ingress q = s.ingress q := by cases q <;> rfl
@[simp] theorem composer_modArb : (modArb f s).composer q = s.composer q := by cases q <;> rfl
@[simp] theorem sup_modArb : (modArb f s).sup q = s.sup q := by cases q <;> rfl
@[simp] theorem claim_modArb : (modArb f s).claim q = s.claim q := by cases q <;> rfl
@[simp] theorem touch_modArb : (modArb f s).touch q = s.touch q := by cases q <;> rfl
@[simp] theorem tables_modArb : (modArb f s).tables q = s.tables q := by cases q <;> rfl
@[simp] theorem pd_modArb : (modArb f s).pd q = s.pd q := by cases q <;> rfl
@[simp] theorem resetPin_modArb : (modArb f s).resetPin = s.resetPin := rfl
@[simp] theorem link_modArb : (modArb f s).link = s.link := rfl
@[simp] theorem notices_modArb : (modArb f s).notices = s.notices := rfl
@[simp] theorem freeSlots_modArb : (modArb f s).freeSlots = s.freeSlots := rfl
@[simp] theorem store_modArb : (modArb f s).store = s.store := rfl
@[simp] theorem openOrders_modArb : (modArb f s).openOrders = s.openOrders := rfl
@[simp] theorem pending_modArb : (modArb f s).pending = s.pending := rfl

end

/-! ### modStore -/

section
variable (f : Memory → Memory)

@[simp] theorem store_modStore : (modStore f s).store = f s.store := rfl
@[simp] theorem panel_modStore : (modStore f s).panel q = s.panel q := by cases q <;> rfl
@[simp] theorem mgmt_modStore : (modStore f s).mgmt q = s.mgmt q := by cases q <;> rfl
@[simp] theorem seq_modStore : (modStore f s).seq q = s.seq q := by cases q <;> rfl
@[simp] theorem ingress_modStore : (modStore f s).ingress q = s.ingress q := by cases q <;> rfl
@[simp] theorem composer_modStore : (modStore f s).composer q = s.composer q := by cases q <;> rfl
@[simp] theorem sup_modStore : (modStore f s).sup q = s.sup q := by cases q <;> rfl
@[simp] theorem claim_modStore : (modStore f s).claim q = s.claim q := by cases q <;> rfl
@[simp] theorem touch_modStore : (modStore f s).touch q = s.touch q := by cases q <;> rfl
@[simp] theorem tables_modStore : (modStore f s).tables q = s.tables q := by cases q <;> rfl
@[simp] theorem pd_modStore : (modStore f s).pd q = s.pd q := by cases q <;> rfl
@[simp] theorem resetPin_modStore : (modStore f s).resetPin = s.resetPin := rfl
@[simp] theorem link_modStore : (modStore f s).link = s.link := rfl
@[simp] theorem notices_modStore : (modStore f s).notices = s.notices := rfl
@[simp] theorem freeSlots_modStore : (modStore f s).freeSlots = s.freeSlots := rfl
@[simp] theorem arb_modStore : (modStore f s).arb = s.arb := rfl
@[simp] theorem openOrders_modStore : (modStore f s).openOrders = s.openOrders := rfl
@[simp] theorem pending_modStore : (modStore f s).pending = s.pending := rfl

end

/-! ### freeSlot -/

section
variable (n : Nat)

@[simp] theorem freeSlots_freeSlot : (freeSlot n s).freeSlots = s.freeSlots + n := rfl
@[simp] theorem panel_freeSlot : (freeSlot n s).panel q = s.panel q := by cases q <;> rfl
@[simp] theorem mgmt_freeSlot : (freeSlot n s).mgmt q = s.mgmt q := by cases q <;> rfl
@[simp] theorem seq_freeSlot : (freeSlot n s).seq q = s.seq q := by cases q <;> rfl
@[simp] theorem ingress_freeSlot : (freeSlot n s).ingress q = s.ingress q := by cases q <;> rfl
@[simp] theorem composer_freeSlot : (freeSlot n s).composer q = s.composer q := by cases q <;> rfl
@[simp] theorem sup_freeSlot : (freeSlot n s).sup q = s.sup q := by cases q <;> rfl
@[simp] theorem claim_freeSlot : (freeSlot n s).claim q = s.claim q := by cases q <;> rfl
@[simp] theorem touch_freeSlot : (freeSlot n s).touch q = s.touch q := by cases q <;> rfl
@[simp] theorem tables_freeSlot : (freeSlot n s).tables q = s.tables q := by cases q <;> rfl
@[simp] theorem pd_freeSlot : (freeSlot n s).pd q = s.pd q := by cases q <;> rfl
@[simp] theorem resetPin_freeSlot : (freeSlot n s).resetPin = s.resetPin := rfl
@[simp] theorem link_freeSlot : (freeSlot n s).link = s.link := rfl
@[simp] theorem notices_freeSlot : (freeSlot n s).notices = s.notices := rfl
@[simp] theorem store_freeSlot : (freeSlot n s).store = s.store := rfl
@[simp] theorem arb_freeSlot : (freeSlot n s).arb = s.arb := rfl
@[simp] theorem openOrders_freeSlot : (freeSlot n s).openOrders = s.openOrders := rfl
@[simp] theorem pending_freeSlot : (freeSlot n s).pending = s.pending := rfl

end

/-! ### takeSlot -/

@[simp] theorem freeSlots_takeSlot : (takeSlot s).freeSlots = s.freeSlots - 1 := rfl
@[simp] theorem mgmt_takeSlot : (takeSlot s).mgmt q = s.mgmt q := by cases q <;> rfl
@[simp] theorem seq_takeSlot : (takeSlot s).seq q = s.seq q := by cases q <;> rfl
@[simp] theorem ingress_takeSlot : (takeSlot s).ingress q = s.ingress q := by cases q <;> rfl
@[simp] theorem composer_takeSlot : (takeSlot s).composer q = s.composer q := by cases q <;> rfl
@[simp] theorem sup_takeSlot : (takeSlot s).sup q = s.sup q := by cases q <;> rfl
@[simp] theorem claim_takeSlot : (takeSlot s).claim q = s.claim q := by cases q <;> rfl
@[simp] theorem touch_takeSlot : (takeSlot s).touch q = s.touch q := by cases q <;> rfl
@[simp] theorem tables_takeSlot : (takeSlot s).tables q = s.tables q := by cases q <;> rfl
@[simp] theorem pd_takeSlot : (takeSlot s).pd q = s.pd q := by cases q <;> rfl
@[simp] theorem resetPin_takeSlot : (takeSlot s).resetPin = s.resetPin := rfl
@[simp] theorem link_takeSlot : (takeSlot s).link = s.link := rfl
@[simp] theorem notices_takeSlot : (takeSlot s).notices = s.notices := rfl
@[simp] theorem store_takeSlot : (takeSlot s).store = s.store := rfl
@[simp] theorem arb_takeSlot : (takeSlot s).arb = s.arb := rfl
@[simp] theorem openOrders_takeSlot : (takeSlot s).openOrders = s.openOrders := rfl
@[simp] theorem pending_takeSlot : (takeSlot s).pending = s.pending := rfl

end Sys2Proof.Machine
end

