-- ==== Sys2Proof/Laws/Frames.lean ====
section
/-! SUPPORT. What each operation leaves alone: one lemma for each, over the parts of the state. -/

namespace Sys2Proof.Machine

variable (a : Part) (p : Panel) (s : State)

/-! ### Updates -/

@[simp] theorem get_modMgmt (f) (h : a ≠ .mgmt p) : (modMgmt p f s).get a = s.get a := by
  cases a <;> first | rfl | (cases p <;> rfl) | (rename_i q; cases p <;> cases q <;> first | rfl | exact absurd rfl h)
@[simp] theorem get_modSeq (f) (h : a ≠ .seq p) : (modSeq p f s).get a = s.get a := by
  cases a <;> first | rfl | (cases p <;> rfl) | (rename_i q; cases p <;> cases q <;> first | rfl | exact absurd rfl h)
@[simp] theorem get_modIngress (f) (h : a ≠ .ingress p) : (modIngress p f s).get a = s.get a := by
  cases a <;> first | rfl | (cases p <;> rfl) | (rename_i q; cases p <;> cases q <;> first | rfl | exact absurd rfl h)
@[simp] theorem get_modComposer (f) (h : a ≠ .composer p) : (modComposer p f s).get a = s.get a := by
  cases a <;> first | rfl | (cases p <;> rfl) | (rename_i q; cases p <;> cases q <;> first | rfl | exact absurd rfl h)
@[simp] theorem get_modSup (f) (h : a ≠ .sup p) : (modSup p f s).get a = s.get a := by
  cases a <;> first | rfl | (cases p <;> rfl) | (rename_i q; cases p <;> cases q <;> first | rfl | exact absurd rfl h)
@[simp] theorem get_modClaim (f) (h : a ≠ .claim p) : (modClaim p f s).get a = s.get a := by
  cases a <;> first | rfl | (cases p <;> rfl) | (rename_i q; cases p <;> cases q <;> first | rfl | exact absurd rfl h)
@[simp] theorem get_modTouch (f) (h : a ≠ .touch p) : (modTouch p f s).get a = s.get a := by
  cases a <;> first | rfl | (cases p <;> rfl) | (rename_i q; cases p <;> cases q <;> first | rfl | exact absurd rfl h)
@[simp] theorem get_modArb (f) (h : a ≠ .arbiter) : (modArb f s).get a = s.get a := by
  cases a <;> first | rfl | exact absurd rfl h
@[simp] theorem get_modStore (f) (h : a ≠ .store) : (modStore f s).get a = s.get a := by
  cases a <;> first | rfl | exact absurd rfl h
@[simp] theorem get_freeSlot (n) (h : a ≠ .freeSlots) : (freeSlot n s).get a = s.get a := by
  cases a <;> first | rfl | exact absurd rfl h
@[simp] theorem get_takeSlot (h : a ≠ .freeSlots) : (takeSlot s).get a = s.get a := by
  cases a <;> first | rfl | exact absurd rfl h
@[simp] theorem get_openOrders (n) (h : a ≠ .openOrders) : ({ s with openOrders := n } : State).get a = s.get a := by
  cases a <;> first | rfl | exact absurd rfl h

/-- The parts of the head link. -/
def linkParts : List Part := [.linkState, .receiver, .queue, .sending, .replyCount]

@[simp] theorem get_modLink (f) (h : a ∉ linkParts) : (modLink f s).get a = s.get a := by
  cases a <;> first | rfl | exact absurd (by decide) h
@[simp] theorem get_modQueue (f : Link → List OutParcel) (h : a ≠ .queue) :
    (modLink (fun l => { l with queue := f l }) s).get a = s.get a := by
  cases a <;> first | rfl | exact absurd rfl h
@[simp] theorem get_modNotices (f) (h : a ∉ [Part.flags, .priorities, .able]) : (modNotices f s).get a = s.get a := by
  cases a <;> first | rfl | exact absurd (by decide) h
@[simp] theorem get_setFlag (f : FlagId) (g : NoticeUnit → Flag) (h : a ≠ .flags) :
    (modNotices (fun u => u.setFlag f (g u)) s).get a = s.get a := by
  cases a <;> first | rfl | exact absurd rfl h | skip
  all_goals (cases f with | part => rfl | panel _ q => cases q <;> rfl)

/-! ### Notices and the Outbound Queue -/

@[simp] theorem get_placeNotice (f : FlagId) (h : a ∉ noticeParts) : (placeNotice f s).get a = s.get a := by
  cases a <;> first | rfl | exact absurd (by decide) h | skip
  all_goals (cases f with | part => rfl | panel _ q => cases q <;> rfl)

@[simp] theorem get_makeChoice (h : a ∉ noticeParts) : (makeChoice s).get a = s.get a := by
  unfold makeChoice; repeat' split
  all_goals simp [h]

theorem get_setAble (b : Bool) (h : a ≠ .able) : (modNotices (fun u => { u with able := b }) s).get a = s.get a := by
  cases a <;> first | rfl | exact absurd rfl h

@[simp] theorem get_reportAble (h : a ∉ noticeParts) : (reportAble s).get a = s.get a := by
  unfold reportAble
  rw [get_makeChoice _ _ h, get_setAble]
  rintro rfl; exact h (by decide)

theorem ne_flags {a : Part} (h : a ∉ noticeParts) : a ≠ .flags := by rintro rfl; exact h (by decide)

@[simp] theorem get_occur (f : FlagId) (i : Word) (h : a ∉ noticeParts) : (occur f i s).get a = s.get a := by
  unfold occur
  dsimp only
  split
  · rw [get_makeChoice _ _ h, get_setFlag _ _ _ _ (ne_flags h)]
  · rw [get_setFlag _ _ _ _ (ne_flags h)]

@[simp] theorem get_occurs (src : PanelSource) (h : a ∉ noticeParts) : (occurs src p s).get a = s.get a :=
  get_occur _ _ _ _ h

@[simp] theorem get_badParcel (h : a ∉ noticeParts) : (badParcel s).get a = s.get a := get_occur _ _ _ _ h

@[simp] theorem get_completeNotice (n : NoticeParcel) (h : a ∉ noticeParts) : (completeNotice n s).get a = s.get a := by
  unfold completeNotice
  dsimp only
  split
  · exact get_reportAble _ _ h
  · rw [get_reportAble _ _ h, get_setFlag _ _ _ _ (ne_flags h)]

@[simp] theorem get_append (x : OutParcel) (h : a ≠ .queue) : (append x s).get a = s.get a := get_modQueue _ _ _ h

@[simp] theorem get_offerTouch (t : TouchParcel) (h : a ≠ .queue) : (offerTouch t s).get a = s.get a := by
  cases a <;> first | exact absurd rfl h | skip
  all_goals (unfold offerTouch replaceOrAppend modLink; split <;> first | rfl | skip)
  all_goals (simp only [State.get]; split <;> rfl)

@[simp] theorem get_offerCheck (c : CheckParcel) (h : a ≠ .queue) : (offerCheck c s).get a = s.get a := by
  cases a <;> first | exact absurd rfl h | skip
  all_goals (unfold offerCheck replaceOrAppend modLink; split <;> first | rfl | skip)
  all_goals (simp only [State.get]; split <;> rfl)

@[simp] theorem get_offerReply (r : ReplyParcel) (h : a ∉ [Part.queue, .replyCount]) :
    (offerReply r s).get a = s.get a := by
  cases a <;> first | rfl | exact absurd (by decide) h

@[simp] theorem get_replyCommand (b tag : Byte) (st : Status) (h : a ∉ [Part.queue, .replyCount]) :
    (replyCommand b tag st s).get a = s.get a := get_offerReply _ _ _ h

@[simp] theorem get_toHunt (h : a ≠ .receiver) : (toHunt s).get a = s.get a := by
  cases a <;> first | rfl | exact absurd rfl h


/-! ### The Ingress Unit and the Line Pool -/

/-- The parts the Ingress Unit of a panel changes. -/
def poolParts (p : Panel) : List Part := [.ingress p, .freeSlots]

@[simp] theorem get_acceptLine (f : Word) (y : Nat) (pxs : List Pixel) (h : a ∉ poolParts p) :
    (acceptLine p f y pxs s).get a = s.get a := by
  simp [poolParts] at h
  unfold acceptLine
  try dsimp only
  all_goals simp [h]

@[simp] theorem get_resolve (y : Nat) (h : a ∉ poolParts p) :
    (resolve p y s).get a = s.get a := by
  simp [poolParts] at h
  unfold resolve
  try dsimp only
  repeat' split
  all_goals simp [h]

@[simp] theorem get_endDriving (h : a ∉ poolParts p) :
    (endDriving p s).get a = s.get a := by
  simp [poolParts] at h
  unfold endDriving
  try dsimp only
  repeat' split
  all_goals simp [h]

@[simp] theorem get_freeLastHost (h : a ∉ poolParts p) :
    (freeLastHost p s).get a = s.get a := by
  simp [poolParts] at h
  unfold freeLastHost
  try dsimp only
  repeat' split
  all_goals simp [h]

@[simp] theorem get_freeHeld (h : a ∉ poolParts p) :
    (freeHeld p s).get a = s.get a := by
  simp [poolParts] at h
  unfold freeHeld
  try dsimp only
  all_goals simp [h]

@[simp] theorem get_ingressFrameStart (h : a ∉ poolParts p) :
    (ingressFrameStart p s).get a = s.get a := by
  simp [poolParts] at h
  unfold ingressFrameStart
  try dsimp only
  all_goals simp [h]

@[simp] theorem get_geometryPurge (h : a ∉ poolParts p) :
    (geometryPurge p s).get a = s.get a := by
  simp [poolParts] at h
  unfold geometryPurge
  try dsimp only
  all_goals simp [h]

@[simp] theorem get_emptyIngress (h : a ∉ poolParts p) :
    (emptyIngress p s).get a = s.get a := by
  simp [poolParts] at h
  unfold emptyIngress
  try dsimp only
  all_goals simp [h]

@[simp] theorem get_dropTail (h : a ∉ poolParts p ++ noticeParts) :
    (dropTail p s).get a = s.get a := by
  simp [noticeParts, poolParts] at h
  unfold dropTail
  try dsimp only
  repeat' split
  all_goals simp [noticeParts, h]

@[simp] theorem get_dropTails (n : Nat) (h : a ∉ poolParts p ++ noticeParts) :
    (dropTails p n s).get a = s.get a := by
  induction n generalizing s with
  | zero => rfl
  | succ n ih => rw [dropTails, ih, get_dropTail _ _ _ h]

@[simp] theorem get_reduceQuota (n : Nat) (h : a ∉ poolParts p ++ noticeParts) :
    (reduceQuota p n s).get a = s.get a := by
  simp [noticeParts, poolParts] at h
  unfold reduceQuota
  try dsimp only
  all_goals simp [noticeParts, poolParts, h]


/-! ### The Composer and the Supervision Unit -/

@[simp] theorem get_driveLine (y : Nat) (h : a ∉ [Part.composer p]) :
    (driveLine p y s).get a = s.get a := by
  simp at h
  unfold driveLine
  try dsimp only
  all_goals simp [h]

@[simp] theorem get_quietPort (h : a ∉ [Part.composer p]) :
    (quietPort p s).get a = s.get a := by
  simp at h
  unfold quietPort
  try dsimp only
  all_goals simp [h]

@[simp] theorem get_mapRegions (f : Region → RegionState → RegionState) (h : a ∉ [Part.composer p]) :
    (mapRegions p f s).get a = s.get a := by
  simp at h
  unfold mapRegions
  try dsimp only
  all_goals simp [h]

@[simp] theorem get_captureRow (y : Nat) (h : a ∉ [Part.composer p, .store]) :
    (captureRow p y s).get a = s.get a := by
  simp at h
  unfold captureRow
  try dsimp only
  repeat' split
  all_goals simp [h]

@[simp] theorem get_foldChecks (y : Nat) (h : a ∉ [Part.composer p]) :
    (foldChecks p y s).get a = s.get a := by
  simp at h
  unfold foldChecks
  try dsimp only
  all_goals simp [h]

@[simp] theorem get_beginChecks (h : a ∉ [Part.composer p]) :
    (beginChecks p s).get a = s.get a := by
  simp at h
  unfold beginChecks
  try dsimp only
  all_goals simp [h]

@[simp] theorem get_clearFrameWork (h : a ∉ [Part.composer p]) :
    (clearFrameWork p s).get a = s.get a := by
  simp at h
  unfold clearFrameWork
  try dsimp only
  all_goals simp [h]

@[simp] theorem get_reportIncomplete (is : List Nat) (h : a ∉ noticeParts) :
    (reportIncomplete p is s).get a = s.get a := by
  induction is generalizing s with
  | nil => rfl
  | cons i is ih => rw [reportIncomplete, ih, get_occur _ _ _ _ h]

@[simp] theorem get_offerChecks (h : a ∉ [Part.queue]) :
    (offerChecks p s).get a = s.get a := by
  simp at h
  unfold offerChecks
  try dsimp only
  repeat' split
  all_goals simp [h]

@[simp] theorem get_composerFrameEnd (h : a ∉ .composer p :: noticeParts) :
    (composerFrameEnd p s).get a = s.get a := by
  simp [noticeParts] at h
  unfold composerFrameEnd
  try dsimp only
  all_goals simp [noticeParts, h]

@[simp] theorem get_composerCommit (old new : Tables) (h : a ∉ [Part.composer p, .store]) :
    (composerCommit p old new s).get a = s.get a := by
  simp at h
  unfold composerCommit
  try dsimp only
  all_goals simp [h]

@[simp] theorem get_judge (bad : Bool) (h : a ∉ [Part.sup p]) :
    (judge p bad s).get a = s.get a := by
  simp at h
  unfold judge
  try dsimp only
  all_goals simp [h]

@[simp] theorem get_modeTakesEffect (h : a ∉ .sup p :: (poolParts p ++ noticeParts)) :
    (modeTakesEffect p s).get a = s.get a := by
  simp [noticeParts, poolParts] at h
  unfold modeTakesEffect
  try dsimp only
  repeat' split
  all_goals simp [noticeParts, poolParts, h]


/-! ### The Touch Processor -/

@[simp] theorem get_makeHop (h : a ∉ .touch p :: noticeParts) :
    (makeHop p s).get a = s.get a := by
  simp [noticeParts] at h
  unfold makeHop
  try dsimp only
  repeat' split
  all_goals simp [noticeParts, h]

@[simp] theorem get_startCycle (h : a ∉ .touch p :: noticeParts) :
    (startCycle p s).get a = s.get a := by
  simp [noticeParts] at h
  unfold startCycle
  try dsimp only
  all_goals simp [noticeParts, h]

@[simp] theorem get_spanFrame (h : a ∉ [Part.touch p]) :
    (spanFrame p s).get a = s.get a := by
  simp at h
  unfold spanFrame
  try dsimp only
  all_goals simp [h]

@[simp] theorem get_hopTrigger (h : a ∉ .touch p :: noticeParts) :
    (hopTrigger p s).get a = s.get a := by
  simp [noticeParts] at h
  unfold hopTrigger
  try dsimp only
  repeat' split
  all_goals simp [noticeParts, h]

@[simp] theorem get_countNoisy (h : a ∉ .touch p :: noticeParts) :
    (countNoisy p s).get a = s.get a := by
  simp [noticeParts] at h
  unfold countNoisy
  try dsimp only
  all_goals simp [noticeParts, h]

@[simp] theorem get_countClean (h : a ∉ [Part.touch p]) :
    (countClean p s).get a = s.get a := by
  simp at h
  unfold countClean
  try dsimp only
  all_goals simp [h]

@[simp] theorem get_offerReport (r : TouchParcel) (h : a ∉ [Part.touch r.panel, .queue]) :
    (offerReport r s).get a = s.get a := by
  simp at h
  unfold offerReport
  split <;> simp [h]

@[simp] theorem get_closeCycle (h : a ∉ [Part.touch p]) :
    (closeCycle p s).get a = s.get a := by
  simp at h
  unfold closeCycle
  try dsimp only
  all_goals simp [h]

@[simp] theorem get_touchCommit (old new : Tables) (h : a ∉ [Part.touch p]) :
    (touchCommit p old new s).get a = s.get a := by
  simp at h
  unfold touchCommit
  try dsimp only
  all_goals simp [h]


/-! ### Works taken in a free order -/

/-- A part that no work changes is the same after all of them, in any order. -/
theorem get_inFreeOrder {works : List (State → State)} (h : ∀ f ∈ works, ∀ s, (f s).get a = s.get a)
    (ha : a ≠ .openOrders) : (inFreeOrder works s).get a = s.get a := by
  unfold inFreeOrder
  generalize works.length = n
  induction n generalizing works s with
  | zero => rfl
  | succ n ih =>
    match works, h with
    | [], _ => rfl
    | [f], h => exact h f (by simp) s
    | f :: g :: fs, h =>
      have hk : Config.freeOrder s.openOrders % (f :: g :: fs).length < (f :: g :: fs).length :=
        Nat.mod_lt _ (by simp)
      simp only [inFreeOrderFuel]
      rw [ih _ (fun x hx => h x (List.mem_of_mem_eraseIdx hx)), List.getD_eq_getElem?_getD,
        List.getElem?_eq_getElem hk, Option.getD_some, h _ (List.getElem_mem hk), get_openOrders _ _ _ ha]

/-- A property that every work keeps holds after all of them, in any order. -/
theorem inFreeOrder_induct (P : State → Prop) (hord : ∀ s n, P s → P { s with openOrders := n })
    {works : List (State → State)} (h : ∀ f ∈ works, ∀ s, P s → P (f s)) (hs : P s) : P (inFreeOrder works s) := by
  unfold inFreeOrder
  generalize works.length = n
  induction n generalizing works s with
  | zero => exact hs
  | succ n ih =>
    match works, h with
    | [], _ => exact hs
    | [f], h => exact h f (by simp) s hs
    | f :: g :: fs, h =>
      have hk : Config.freeOrder s.openOrders % (f :: g :: fs).length < (f :: g :: fs).length :=
        Nat.mod_lt _ (by simp)
      simp only [inFreeOrderFuel]
      apply ih _ (fun x hx => h x (List.mem_of_mem_eraseIdx hx))
      rw [List.getD_eq_getElem?_getD, List.getElem?_eq_getElem hk, Option.getD_some]
      exact h _ (List.getElem_mem hk) _ (hord _ _ hs)

@[simp] theorem get_closeWorks (r : Option TouchParcel) (hr : ∀ t, r = some t → t.panel = p)
    (h : a ∉ .touch p :: .openOrders :: noticeParts) : (closeWorks p r s).get a = s.get a := by
  simp [noticeParts] at h
  unfold closeWorks
  dsimp only
  rw [get_inFreeOrder _ _ _ h.2.1]
  · split <;> simp [h]
  · intro f hf s
    simp only [List.mem_append] at hf
    rcases hf with hf | hf
    · split at hf <;> simp at hf
      subst hf; simp [noticeParts, h]
    · split at hf <;> simp at hf
      subst hf; rename_i t; simp [h, hr t rfl]

@[simp] theorem panel_touchReport (t : Touch) (d : PanelDescriptor) (cs : List Contact) :
    (touchReport p t d cs).panel = p := rfl

@[simp] theorem get_completeCycle (h : a ∉ .touch p :: .openOrders :: noticeParts) :
    (completeCycle p s).get a = s.get a := by
  simp [noticeParts] at h
  unfold completeCycle
  dsimp only
  split
  · simp [h]
    rw [get_closeWorks _ _ _ _ (by intro t ht; unfold State.liftReport at ht; dsimp only at ht; split at ht <;> simp at ht; rw [← ht]; rfl) (by simp [noticeParts, h])]
    simp [h]
  · simp [h]
    rw [get_closeWorks _ _ _ _ (by intro t ht; unfold State.ordinaryReport at ht; dsimp only at ht; split at ht <;> simp at ht; rw [← ht]; rfl) (by simp [noticeParts, h])]
    simp [h]

@[simp] theorem get_deliver (g : Nat) (raws : List Word) (noise : Word) (h : a ∉ .touch p :: .openOrders :: noticeParts) :
    (deliver p g raws noise s).get a = s.get a := by
  simp [noticeParts] at h
  unfold deliver
  try dsimp only
  repeat' split
  all_goals simp [noticeParts, h]


/-! ### The Sense Arbiter -/

/-- The parts a run of the grant rule can change. -/
def senseParts : List Part :=
  [.arbiter, .seq .p0, .seq .p1, .claim .p0, .claim .p1, .touch .p0, .touch .p1, .flags, .able, .queue]

theorem not_sense (h : a ∉ senseParts) (p : Panel) :
    a ≠ .arbiter ∧ a ≠ .seq p ∧ a ≠ .claim p ∧ a ≠ .touch p ∧ a ≠ .flags ∧ a ≠ .able ∧ a ≠ .queue := by
  simp [senseParts] at h; cases p <;> simp [h]

@[simp] theorem get_setPhase (ph : SensePhase) (h : a ∉ [Part.seq p]) :
    (setPhase p ph s).get a = s.get a := by
  simp at h
  unfold setPhase
  try dsimp only
  all_goals simp [h]

@[simp] theorem get_beginBurst (h : a ∉ .seq p :: .claim p :: .touch p :: noticeParts) :
    (beginBurst p s).get a = s.get a := by
  simp [noticeParts] at h
  unfold beginBurst
  try dsimp only
  repeat' split
  all_goals simp [noticeParts, h]

@[simp] theorem get_enterSetup (h : a ∉ .seq p :: .claim p :: .touch p :: noticeParts) :
    (enterSetup p s).get a = s.get a := by
  simp [noticeParts] at h
  unfold enterSetup
  try dsimp only
  repeat' split
  all_goals simp [noticeParts, h]

@[simp] theorem get_enterSwitch (h : a ∉ .seq p :: .claim p :: .touch p :: noticeParts) :
    (enterSwitch p s).get a = s.get a := by
  simp [noticeParts] at h
  unfold enterSwitch
  try dsimp only
  repeat' split
  all_goals simp [noticeParts, h]

@[simp] theorem get_endReservation (h : a ∉ [Part.arbiter]) :
    (endReservation p s).get a = s.get a := by
  simp at h
  unfold endReservation
  try dsimp only
  repeat' split
  all_goals simp [h]

@[simp] theorem get_grant (h : a ∉ .arbiter :: .seq p :: .claim p :: .touch p :: noticeParts) :
    (grant p s).get a = s.get a := by
  simp [noticeParts] at h
  unfold grant
  try dsimp only
  repeat' split
  all_goals simp [noticeParts, h]

@[simp] theorem get_runGrantRule (h : a ∉ senseParts) :
    (runGrantRule s).get a = s.get a := by
  have hg : ∀ p s, (grant p s).get a = s.get a := by
    intro p s; have hp := not_sense a h p; simp [noticeParts, hp]
  unfold runGrantRule
  dsimp only
  repeat' split
  all_goals simp [hg]

@[simp] theorem get_release (h : a ∉ [Part.arbiter, .seq p, .claim p]) :
    (release p s).get a = s.get a := by
  simp at h
  unfold release
  try dsimp only
  repeat' split
  all_goals simp [h]

@[simp] theorem get_reserveFree (h : a ∉ [Part.arbiter]) :
    (reserveFree p s).get a = s.get a := by
  simp at h
  unfold reserveFree
  try dsimp only
  repeat' split
  all_goals simp [h]

@[simp] theorem get_withdraw (h : a ∉ [Part.arbiter, .seq p, .claim p]) :
    (withdraw p s).get a = s.get a := by
  simp at h
  unfold withdraw
  try dsimp only
  all_goals simp [h]

@[simp] theorem get_abortSense (h : a ∉ senseParts) :
    (abortSense p s).get a = s.get a := by
  have h0 := not_sense a h
  have hp := h0 p
  unfold abortSense
  try dsimp only
  repeat' split
  all_goals simp [h, hp]

@[simp] theorem get_recordRequest (r : Request) (h : a ∉ [Part.claim p]) :
    (recordRequest p r s).get a = s.get a := by
  simp at h
  unfold recordRequest
  try dsimp only
  all_goals simp [h]

@[simp] theorem get_makeTimelineRequest (e : Segment) (h : a ∉ senseParts) :
    ((makeTimelineRequest p e s).1).get a = s.get a := by
  have h0 := not_sense a h
  have hp := h0 p
  unfold makeTimelineRequest
  try dsimp only
  repeat' split
  all_goals simp [noticeParts, h, hp]

@[simp] theorem get_makeFreeRequest (h : a ∉ senseParts) :
    (makeFreeRequest p s).get a = s.get a := by
  have h0 := not_sense a h
  have hp := h0 p
  unfold makeFreeRequest
  try dsimp only
  all_goals simp [h, hp]

@[simp] theorem get_withdrawFree (h : a ∉ senseParts) :
    (withdrawFree p s).get a = s.get a := by
  have h0 := not_sense a h
  have hp := h0 p
  unfold withdrawFree
  try dsimp only
  repeat' split
  all_goals simp [h, hp]


/-! ### The Timeline Sequencer -/

/-- The parts that walking the timeline of a panel can change. -/
def walkParts (p : Panel) : List Part := .composer p :: .ingress p :: .freeSlots :: senseParts

theorem not_walk (h : a ∉ walkParts p) :
    a ≠ .composer p ∧ a ≠ .ingress p ∧ a ≠ .freeSlots ∧ a ∉ senseParts := by simpa [walkParts] using h

@[simp] theorem get_retune (old new : PanelDescriptor) (h : a ∉ [Part.seq p]) :
    (retune p old new s).get a = s.get a := by
  simp at h
  unfold retune
  try dsimp only
  repeat' split
  all_goals simp [h]

@[simp] theorem get_purgeOnGeometry (old new : PanelDescriptor) (h : a ∉ poolParts p) :
    (purgeOnGeometry p old new s).get a = s.get a := by
  simp [poolParts] at h
  unfold purgeOnGeometry
  try dsimp only
  repeat' split
  all_goals simp [poolParts, h]

@[simp] theorem get_applyCommit (h : a ∉ .mgmt p :: .seq p :: .composer p :: .store :: .touch p :: (poolParts p ++ noticeParts)) :
    (applyCommit p s).get a = s.get a := by
  simp [noticeParts, poolParts] at h
  unfold applyCommit
  try dsimp only
  all_goals simp [noticeParts, poolParts, h]

@[simp] theorem get_applyPending (h : a ∉ .mgmt p :: .seq p :: .composer p :: .store :: .touch p :: (poolParts p ++ noticeParts)) :
    (applyPending p s).get a = s.get a := by
  simp [noticeParts, poolParts] at h
  unfold applyPending
  try dsimp only
  repeat' split
  all_goals simp [noticeParts, poolParts, h]

@[simp] theorem get_beginSlot (h : a ∉ .seq p :: .composer p :: poolParts p) :
    (beginSlot p s).get a = s.get a := by
  simp [poolParts] at h
  unfold beginSlot
  try dsimp only
  all_goals simp [poolParts, h]

@[simp] theorem get_beginSegment (i : Nat) (e : Segment) (h : a ∉ walkParts p) :
    ((beginSegment p i e s).1).get a = s.get a := by
  have h1 := not_walk a p h
  have hp := not_sense a h1.2.2.2 p
  unfold beginSegment
  try dsimp only
  repeat' split
  all_goals simp [poolParts, h1, hp]

@[simp] theorem get_walk (l : List (Segment × Nat)) (h : a ∉ walkParts p) :
    ((walk p l s).1).get a = s.get a := by
  induction l generalizing s with
  | nil => rfl
  | cons e l ih =>
    have hb := get_beginSegment a p s e.2 e.1 h
    simp only [walk]
    split
    · rename_i h1; rw [ih]; rw [h1] at hb; exact hb
    · rename_i h1; rw [h1] at hb; exact hb

@[simp] theorem get_raisePrestart (h : a ∉ .seq p :: noticeParts) :
    (raisePrestart p s).get a = s.get a := by
  simp [noticeParts] at h
  unfold raisePrestart
  try dsimp only
  all_goals simp [noticeParts, h]

@[simp] theorem get_examinePrestart (h : a ∉ .seq p :: noticeParts) :
    (examinePrestart p s).get a = s.get a := by
  simp [noticeParts] at h
  unfold examinePrestart
  try dsimp only
  repeat' split
  all_goals simp [noticeParts, h]

/-- The parts a frame start of a panel can change. -/
def frameParts (p : Panel) : List Part := .mgmt p :: .sup p :: .store :: walkParts p

theorem not_frame (h : a ∉ frameParts p) : a ≠ .mgmt p ∧ a ≠ .sup p ∧ a ≠ .store ∧ a ∉ walkParts p := by
  simpa [frameParts] using h

@[simp] theorem get_frameStart (h : a ∉ frameParts p) :
    (frameStart p s).get a = s.get a := by
  have h0 := not_frame a p h
  have h1 := not_walk a p h0.2.2.2
  have hp := not_sense a h1.2.2.2 p
  unfold frameStart
  try dsimp only
  all_goals simp [noticeParts, poolParts, h0, h1, hp]

@[simp] theorem get_enterStretch (h : a ∉ frameParts p) :
    (enterStretch p s).get a = s.get a := by
  have h0 := not_frame a p h
  have h1 := not_walk a p h0.2.2.2
  have hp := not_sense a h1.2.2.2 p
  unfold enterStretch
  try dsimp only
  repeat' split
  all_goals simp [h1, hp]

@[simp] theorem get_timelineEnd (h : a ∉ frameParts p) :
    (timelineEnd p s).get a = s.get a := by
  have h0 := not_frame a p h
  have h1 := not_walk a p h0.2.2.2
  have hp := not_sense a h1.2.2.2 p
  unfold timelineEnd
  try dsimp only
  repeat' split
  all_goals simp [h]

@[simp] theorem get_endSegment (h : a ∉ frameParts p) :
    (endSegment p s).get a = s.get a := by
  have h0 := not_frame a p h
  have h1 := not_walk a p h0.2.2.2
  have hp := not_sense a h1.2.2.2 p
  unfold endSegment
  try dsimp only
  repeat' split
  all_goals simp [h, h0]

@[simp] theorem get_reportAppend (h : a ∉ senseParts) :
    (reportAppend p s).get a = s.get a := by
  have h0 := not_sense a h
  have hp := h0 p
  unfold reportAppend
  try dsimp only
  repeat' split
  all_goals simp [h, hp]

@[simp] theorem get_startOrDefer (h : a ∉ frameParts p) :
    (startOrDefer p s).get a = s.get a := by
  have h0 := not_frame a p h
  have h1 := not_walk a p h0.2.2.2
  have hp := not_sense a h1.2.2.2 p
  unfold startOrDefer
  try dsimp only
  repeat' split
  all_goals simp [h, hp]

@[simp] theorem get_expireStretch (h : a ∉ senseParts) :
    (expireStretch p s).get a = s.get a := by
  have h0 := not_sense a h
  have hp := h0 p
  unfold expireStretch
  try dsimp only
  all_goals simp [noticeParts, h, hp]

@[simp] theorem get_stretchBoundary (h : a ∉ frameParts p) :
    (stretchBoundary p s).get a = s.get a := by
  have h0 := not_frame a p h
  have h1 := not_walk a p h0.2.2.2
  have hp := not_sense a h1.2.2.2 p
  unfold stretchBoundary
  try dsimp only
  repeat' split
  all_goals simp [h, h1, hp]

@[simp] theorem get_freeHoldEnd (h : a ∉ frameParts p) :
    (freeHoldEnd p s).get a = s.get a := by
  have h0 := not_frame a p h
  have h1 := not_walk a p h0.2.2.2
  have hp := not_sense a h1.2.2.2 p
  unfold freeHoldEnd
  try dsimp only
  repeat' split
  all_goals simp [h, h1, hp]

@[simp] theorem get_timelineHoldEnd (h : a ∉ frameParts p) :
    (timelineHoldEnd p s).get a = s.get a := by
  have h0 := not_frame a p h
  have h1 := not_walk a p h0.2.2.2
  have hp := not_sense a h1.2.2.2 p
  unfold timelineHoldEnd
  try dsimp only
  repeat' split
  all_goals simp [h, h1, hp]

@[simp] theorem get_holdEnd (h : a ∉ frameParts p) :
    (holdEnd p s).get a = s.get a := by
  have h0 := not_frame a p h
  have h1 := not_walk a p h0.2.2.2
  have hp := not_sense a h1.2.2.2 p
  unfold holdEnd
  try dsimp only
  repeat' split
  all_goals simp [h]

@[simp] theorem get_enterHold (h : a ∉ frameParts p) :
    (enterHold p s).get a = s.get a := by
  have h0 := not_frame a p h
  have h1 := not_walk a p h0.2.2.2
  have hp := not_sense a h1.2.2.2 p
  unfold enterHold
  try dsimp only
  repeat' split
  all_goals simp [h, hp]

@[simp] theorem get_burstDone (g : Nat) (raws : List Word) (noise : Word) (h : a ∉ .openOrders :: frameParts p) :
    (burstDone p g raws noise s).get a = s.get a := by
  simp only [List.mem_cons, not_or] at h
  have h0 := not_frame a p h.2
  have h1 := not_walk a p h0.2.2.2
  have hp := not_sense a h1.2.2.2 p
  unfold burstDone
  dsimp only
  repeat' split
  all_goals simp [noticeParts, h, hp]

@[simp] theorem get_raiseMark (h : a ∉ .seq p :: noticeParts) :
    (raiseMark p s).get a = s.get a := by
  simp [noticeParts] at h
  unfold raiseMark
  try dsimp only
  repeat' split
  all_goals simp [noticeParts, h]

@[simp] theorem get_raiseLineMiss (h : a ∉ noticeParts) :
    (raiseLineMiss p s).get a = s.get a := by
  simp [noticeParts] at h
  unfold raiseLineMiss
  try dsimp only
  all_goals simp [noticeParts, h]

@[simp] theorem get_reachFrameEnd (y : Nat) (h : a ∉ [Part.seq p, .sup p]) :
    (reachFrameEnd p y s).get a = s.get a := by
  simp at h
  unfold reachFrameEnd
  try dsimp only
  repeat' split
  all_goals simp [h]

theorem get_slotEndWorks (y : Nat) (s0 : State) (h : a ∉ .seq p :: .composer p :: noticeParts) :
    ∀ f ∈ slotEndWorks p y s0, ∀ s, (f s).get a = s.get a := by
  simp [noticeParts] at h
  intro f hf s
  simp only [slotEndWorks, List.mem_append] at hf
  rcases hf with (hf | hf) | hf
  · split at hf <;> simp at hf; subst hf; simp [noticeParts, h]
  · split at hf <;> simp at hf; subst hf; simp [noticeParts, h]
  · split at hf
    · simp only [List.mem_append] at hf
      rcases hf with hf | hf
      · split at hf <;> simp at hf; subst hf; simp [noticeParts, h]
      · simp at hf; subst hf; simp [noticeParts, h]
    · simp at hf

@[simp] theorem get_slotEnd
    (h : a ∉ .seq p :: .composer p :: .sup p :: .store :: .openOrders :: (poolParts p ++ noticeParts)) :
    (slotEnd p s).get a = s.get a := by
  simp [noticeParts, poolParts] at h
  unfold slotEnd
  dsimp only
  rw [get_inFreeOrder _ _ (get_slotEndWorks _ _ _ _ (by simp [noticeParts, h])) (by simp [h])]
  simp [poolParts, h]

@[simp] theorem get_driveSlotDone (n : Nat) (h : a ∉ .openOrders :: frameParts p) :
    (driveSlotDone p n s).get a = s.get a := by
  simp only [List.mem_cons, not_or] at h
  have h0 := not_frame a p h.2
  have h1 := not_walk a p h0.2.2.2
  have hp := not_sense a h1.2.2.2 p
  unfold driveSlotDone
  dsimp only
  repeat' split
  all_goals simp [noticeParts, poolParts, h, h0, h1, hp]

@[simp] theorem get_blankDone (n : Nat) (h : a ∉ frameParts p) :
    (blankDone p n s).get a = s.get a := by
  have h0 := not_frame a p h
  have h1 := not_walk a p h0.2.2.2
  have hp := not_sense a h1.2.2.2 p
  unfold blankDone
  try dsimp only
  repeat' split
  all_goals simp [noticeParts, h, hp]

@[simp] theorem get_abandonFrame (h : a ∉ [Part.sup p, .composer p]) :
    (abandonFrame p s).get a = s.get a := by
  simp at h
  unfold abandonFrame
  try dsimp only
  all_goals simp [h]

@[simp] theorem get_restartSynth (h : a ∉ [Part.seq p]) :
    (restartSynth p s).get a = s.get a := by
  simp at h
  unfold restartSynth
  try dsimp only
  all_goals simp [h]

@[simp] theorem get_lockLoss (h : a ∉ frameParts p) :
    (lockLoss p s).get a = s.get a := by
  have h0 := not_frame a p h
  have h1 := not_walk a p h0.2.2.2
  have hp := not_sense a h1.2.2.2 p
  unfold lockLoss
  try dsimp only
  repeat' split
  all_goals simp [poolParts, h0, h1, hp]

@[simp] theorem get_emptyPanel (h : a ∉ frameParts p) :
    (emptyPanel p s).get a = s.get a := by
  have h0 := not_frame a p h
  have h1 := not_walk a p h0.2.2.2
  have hp := not_sense a h1.2.2.2 p
  unfold emptyPanel
  try dsimp only
  all_goals simp [poolParts, h1, hp]

@[simp] theorem get_restartBlocks (h : a ∉ frameParts p) :
    (restartBlocks p s).get a = s.get a := by
  have h0 := not_frame a p h
  have h1 := not_walk a p h0.2.2.2
  have hp := not_sense a h1.2.2.2 p
  unfold restartBlocks
  try dsimp only
  repeat' split
  all_goals simp [h, h0, hp]

@[simp] theorem get_stopBlocks (h : a ∉ frameParts p) :
    (stopBlocks p s).get a = s.get a := by
  have h0 := not_frame a p h
  have h1 := not_walk a p h0.2.2.2
  have hp := not_sense a h1.2.2.2 p
  unfold stopBlocks
  try dsimp only
  all_goals simp [h, h0, hp]

end Sys2Proof.Machine
end

