-- ==== Sys2Proof/Laws/Induct.lean ====
section
/-! SUPPORT. One induction for all the operations of a panel: a relation between states that the primitive updates
keep is kept by every operation built from them. -/

namespace Sys2Proof.Machine

/-- A relation between a state and a later one that the primitive updates of the panel blocks keep. -/
structure Kept (R : State → State → Prop) : Prop where
  refl : ∀ s, R s s
  trans : ∀ {s t u}, R s t → R t u → R s u
  seq : ∀ p f s, R s (modSeq p f s)
  claim : ∀ p f s, R s (modClaim p f s)
  arb : ∀ f s, R s (modArb f s)
  occur : ∀ f i s, R s (occur f i s)
  startCycle : ∀ p s, R s (startCycle p s)
  deliver : ∀ p g raws noise s, R s (deliver p g raws noise s)
  spanFrame : ∀ p s, R s (spanFrame p s)
  restartTouch : ∀ p s, R s (modTouch p Touch.restart s)
  beginSlot : ∀ p s, R s (beginSlot p s)
  slotEnd : ∀ p s, R s (slotEnd p s)
  quietPort : ∀ p s, R s (quietPort p s)
  beginChecks : ∀ p s, R s (beginChecks p s)
  clearFrameWork : ∀ p s, R s (clearFrameWork p s)
  applyPending : ∀ p s, R s (applyPending p s)
  modeTakesEffect : ∀ p s, R s (modeTakesEffect p s)
  ingressFrameStart : ∀ p s, R s (ingressFrameStart p s)
  freeHeld : ∀ p s, R s (freeHeld p s)
  emptyIngress : ∀ p s, R s (emptyIngress p s)
  sup : ∀ p f s, R s (modSup p f s)
  openOrders : ∀ n s, R s { s with openOrders := n }

namespace Kept
variable {R : State → State → Prop} (h : Kept R) (p : Panel) (s : State)
include h

theorem setPhase (ph : SensePhase) : R s (setPhase p ph s) := h.seq _ _ _

theorem beginBurst : R s (beginBurst p s) := by
  unfold Machine.beginBurst
  dsimp only
  refine h.trans (h.trans ?_ (h.claim _ _ _)) (h.setPhase _ _ _)
  split
  · exact h.startCycle _ _
  · exact h.refl _

theorem enterSetup : R s (enterSetup p s) := by
  unfold Machine.enterSetup
  split
  · exact h.trans (h.setPhase _ _ _) (h.beginBurst _ _)
  · exact h.setPhase _ _ _

theorem enterSwitch : R s (enterSwitch p s) := by
  unfold Machine.enterSwitch
  split
  · exact h.trans (h.setPhase _ _ _) (h.enterSetup _ _)
  · exact h.setPhase _ _ _

theorem endReservation : R s (endReservation p s) := by
  unfold Machine.endReservation
  split
  · exact h.arb _ _
  · exact h.refl _

theorem grant : R s (grant p s) := by
  unfold Machine.grant
  split
  · exact h.refl _
  · dsimp only
    have h1 := fun f g => h.trans (h.trans (h.arb f s) (h.endReservation p _)) (h.claim p g _)
    split
    · exact h.trans (h1 _ _) (h.enterSwitch _ _)
    · exact h.trans (h1 _ _) (h.enterSetup _ _)

theorem runGrantRule : R s (runGrantRule s) := by
  unfold Machine.runGrantRule
  split
  · exact h.refl _
  · dsimp only
    split
    · exact h.grant _ _
    · exact h.trans (h.grant _ _) (h.grant _ _)

theorem release : R s (release p s) := by
  unfold Machine.release
  exact h.trans (h.trans (h.arb _ _) (h.claim _ _ _)) (h.setPhase _ _ _)

theorem reserveFree : R s (reserveFree p s) := by
  unfold Machine.reserveFree
  split
  · exact h.arb _ _
  · exact h.refl _

theorem withdraw : R s (withdraw p s) := by
  unfold Machine.withdraw
  exact h.trans (h.trans (h.claim _ _ _) (h.endReservation _ _)) (h.setPhase _ _ _)

theorem abortSense : R s (abortSense p s) := by
  unfold Machine.abortSense
  split
  · exact h.trans (h.release _ _) (h.runGrantRule _)
  · exact h.trans (h.withdraw _ _) (h.runGrantRule _)
  · exact h.refl _

theorem occurs (src : PanelSource) : R s (occurs src p s) := h.occur _ _ _

theorem makeTimelineRequest (e : Segment) : R s (makeTimelineRequest p e s).1 := by
  have h1 : ∀ r, R s (Machine.runGrantRule (Machine.setPhase p .request (recordRequest p r s))) := fun r =>
    h.trans (h.trans (h.claim _ _ _) (h.setPhase _ _ _)) (h.runGrantRule _)
  unfold Machine.makeTimelineRequest
  dsimp only
  split
  · exact h1 _
  · split
    · exact h.trans (h1 _) (h.trans (h.withdraw _ _) (h.occurs _ _ _))
    · exact h.trans (h1 _) (h.reserveFree _ _)

theorem makeFreeRequest : R s (makeFreeRequest p s) := h.trans (h.claim _ _ _) (h.runGrantRule _)

theorem withdrawFree : R s (withdrawFree p s) := by
  unfold Machine.withdrawFree
  split
  · exact h.trans (h.withdraw _ _) (h.runGrantRule _)
  · exact h.refl _

theorem beginSegment (i : Nat) (e : Segment) : R s (beginSegment p i e s).1 := by
  unfold Machine.beginSegment
  dsimp only
  split
  · exact h.trans (h.trans (h.seq _ _ _) (h.seq _ _ _)) (h.beginSlot _ _)
  · exact h.trans (h.trans (h.seq _ _ _) (h.seq _ _ _)) (h.quietPort _ _)
  · exact h.trans (h.trans (h.seq _ _ _) (h.quietPort _ _)) (h.makeTimelineRequest _ _ _)
  · dsimp only
    exact h.seq _ _ _

theorem walk (l : List (Segment × Nat)) : R s (walk p l s).1 := by
  induction l generalizing s with
  | nil => exact h.refl _
  | cons e l ih =>
    have hb := h.beginSegment p s e.2 e.1
    simp only [Machine.walk]
    split <;> rename_i heq <;> rw [heq] at hb
    · exact h.trans hb (ih _)
    · exact hb

theorem examinePrestart : R s (examinePrestart p s) := by
  unfold Machine.examinePrestart raisePrestart
  split
  · exact h.trans (h.seq _ _ _) (h.occurs _ _ _)
  · exact h.refl _

theorem frameStart : R s (frameStart p s) := by
  unfold Machine.frameStart
  dsimp only
  refine h.trans (h.trans ?_ (h.walk _ _ _)) (h.examinePrestart _ _)
  refine h.trans (h.trans (h.trans ?_ (h.seq _ _ _)) (h.beginChecks _ _)) (h.spanFrame _ _)
  exact h.trans (h.trans (h.applyPending _ _) (h.modeTakesEffect _ _)) (h.ingressFrameStart _ _)

theorem enterStretch : R s (enterStretch p s) := by
  unfold Machine.enterStretch
  dsimp only
  have h1 := fun f => h.trans (h.seq p f s) (h.quietPort p _)
  split
  · exact h.trans (h1 _) (h.makeFreeRequest _ _)
  · exact h1 _

theorem timelineEnd : R s (timelineEnd p s) := by
  unfold Machine.timelineEnd
  split
  · exact h.enterStretch _ _
  · exact h.frameStart _ _

theorem endSegment : R s (endSegment p s) := by
  unfold Machine.endSegment
  dsimp only
  split
  · exact h.trans (h.walk _ _ _) (h.timelineEnd _ _)
  · exact h.walk _ _ _

theorem reportAppend : R s (reportAppend p s) := by
  unfold Machine.reportAppend
  split
  · exact h.trans (h.seq _ _ _) (h.withdrawFree _ _)
  · exact h.refl _

theorem startOrDefer : R s (startOrDefer p s) := by
  unfold Machine.startOrDefer
  split
  · exact h.seq _ _ _
  · exact h.frameStart _ _

theorem expireStretch : R s (expireStretch p s) :=
  h.trans (h.trans (h.seq _ _ _) (h.occurs _ _ _)) (h.withdrawFree _ _)

theorem stretchBoundary : R s (stretchBoundary p s) := by
  unfold Machine.stretchBoundary
  dsimp only
  split
  · exact h.trans (h.seq _ _ _) (h.startOrDefer _ _)
  · exact h.trans (h.seq _ _ _) (h.startOrDefer _ _)
  · split
    · exact h.trans (h.trans (h.seq _ _ _) (h.expireStretch _ _)) (h.startOrDefer _ _)
    · exact h.seq _ _ _

theorem holdEnd : R s (holdEnd p s) := by
  unfold Machine.holdEnd
  split
  · unfold freeHoldEnd
    dsimp only
    split
    · exact h.trans (h.release _ _) (h.makeFreeRequest _ _)
    · split
      · exact h.trans (h.trans (h.release _ _) (h.runGrantRule _)) (h.frameStart _ _)
      · exact h.trans (h.release _ _) (h.runGrantRule _)
  · unfold timelineHoldEnd
    dsimp only
    split
    · exact h.trans (h.release _ _) (h.endSegment _ _)
    · exact h.trans (h.trans (h.release _ _) (h.runGrantRule _)) (h.endSegment _ _)

theorem enterHold : R s (enterHold p s) := by
  unfold Machine.enterHold
  split
  · exact h.trans (h.setPhase _ _ _) (h.holdEnd _ _)
  · exact h.setPhase _ _ _

theorem burstDone (g : Nat) (raws : List Word) (noise : Word) : R s (burstDone p g raws noise s) := by
  unfold Machine.burstDone
  dsimp only
  have h1 := fun f => h.trans (h.deliver p g raws noise s) (h.claim p f _)
  split
  · split
    · exact h.trans (h1 _) (h.enterHold _ _)
    · exact h.trans (h1 _) (h.beginBurst _ _)
  · exact h1 _

theorem driveSlotDone (n : Nat) : R s (driveSlotDone p n s) := by
  unfold Machine.driveSlotDone
  dsimp only
  split
  · exact h.trans (h.slotEnd _ _) (h.endSegment _ _)
  · exact h.trans (h.slotEnd _ _) (h.beginSlot _ _)

theorem blankDone (n : Nat) : R s (blankDone p n s) := by
  unfold Machine.blankDone
  dsimp only
  have h1 := fun f => h.trans (h.seq p f s) (h.examinePrestart p _)
  split
  · exact h.trans (h1 _) (h.endSegment _ _)
  · exact h1 _

theorem deadlineCame : R s (deadlineCame p s) :=
  h.trans (h.trans (h.trans (h.withdraw _ _) (h.occurs _ _ _)) (h.runGrantRule _)) (h.endSegment _ _)

theorem judge (bad : Bool) : R s (judge p bad s) := h.sup _ _ _

theorem abandonFrame : R s (abandonFrame p s) := h.trans (h.judge _ _ _) (h.clearFrameWork _ _)

theorem lockLoss : R s (lockLoss p s) := by
  have h1 : ∀ u, R u (Machine.modSeq p Sequencer.lockLost (Machine.quietPort p (Machine.freeHeld p
      (Machine.abortSense p u)))) := fun u =>
    h.trans (h.trans (h.trans (h.abortSense _ _) (h.freeHeld _ _)) (h.quietPort _ _)) (h.seq _ _ _)
  unfold Machine.lockLoss
  dsimp only
  split
  · exact h.trans (h.abandonFrame _ _) (h1 _)
  · exact h1 _

theorem emptyPanel : R s (emptyPanel p s) :=
  h.trans (h.trans (h.trans (h.trans (h.abortSense _ _) (h.restartTouch _ _)) (h.emptyIngress _ _))
    (h.clearFrameWork _ _)) (h.quietPort _ _)

theorem restartBlocks : R s (restartBlocks p s) := by
  have h1 : ∀ u, R u (restartSynth p (Machine.modSeq p Sequencer.restarted (Machine.emptyPanel p u))) :=
    fun u => h.trans (h.trans (h.emptyPanel _ _) (h.seq _ _ _)) (h.seq _ _ _)
  unfold Machine.restartBlocks
  dsimp only
  split
  · exact h.trans (h.judge _ _ _) (h1 _)
  · exact h1 _

theorem stopBlocks : R s (stopBlocks p s) :=
  h.trans (h.trans (h.emptyPanel _ _) (h.seq _ _ _)) (h.sup _ _ _)

theorem takeAcquire : R s (takeAcquire p s) := by
  have h1 : ∀ u, R u (acquireNotice p u) := fun u => by
    unfold acquireNotice; split
    · exact h.occurs _ _ _
    · exact h.occurs _ _ _
    · exact h.refl _
    · exact h.refl _
  unfold Machine.takeAcquire
  split
  · exact h.seq _ _ _
  · exact h.trans (h.trans (h.seq _ _ _) (h1 _)) (h.frameStart _ _)
  · exact h.refl _
  · exact h.refl _

theorem acquireAfterCut : R s (acquireAfterCut p s) := by
  have h1 := h.trans (h.seq p (fun q => { q with cutShort := false }) s) (h.openOrders (s.openOrders + 1) _)
  unfold Machine.acquireAfterCut
  dsimp only
  split
  · exact h1
  · exact h.trans h1 (h.takeAcquire _ _)

theorem takeLoss : R s (takeLoss p s) := by
  have h1 : ∀ u, R u (lossNotice p u) := fun u => by
    unfold lossNotice; split
    · exact h.occurs _ _ _
    · exact h.occurs _ _ _
    · exact h.refl _
    · exact h.refl _
  unfold Machine.takeLoss
  split
  · exact h.seq _ _ _
  · exact h.trans (h.seq _ _ _) (h1 _)
  · exact h.trans (h1 _) (h.lockLoss _ _)
  · exact h.trans (h1 _) (h.lockLoss _ _)

end Kept

/-- The commands of the panels' synthesizers, line periods and sense windows. -/
def timedCommand : Instr → Bool
  | .acquireEdge _ | .lossEdge _ | .driveSlotEnd _ | .blankLineEnd _ | .stretchLineBoundary _ | .stretchExpiry _
  | .waitDeadline _ | .switchGapEnd _ | .setupGapEnd _ | .burstComplete _ _ _ | .holdGapEnd _ => true
  | _ => false

/-- A relation the primitive updates keep holds between a state and the one a timed command leads to. -/
theorem Kept.timed {R : State → State → Prop} (h : Kept R) {c : Instr} (hc : timedCommand c = true) {s t : State}
    (he : exec c s = .next t) : R s t := by
  cases c <;> simp only [timedCommand, Bool.false_eq_true] at hc <;>
    simp only [exec, execAcquireEdge, execLossEdge, execDriveSlotEnd, execBlankLineEnd, execStretchLineBoundary,
      execStretchExpiry, execWaitDeadline, execSwitchGapEnd, execSetupGapEnd, execBurstComplete, execHoldGapEnd,
      Host.Outcome.next.injEq] at he <;> subst he <;> split <;> try split
  all_goals first
    | exact h.refl _
    | exact h.acquireAfterCut _ _
    | exact h.takeAcquire _ _
    | exact h.takeLoss _ _
    | exact h.driveSlotDone _ _ _
    | exact h.blankDone _ _ _
    | exact h.stretchBoundary _ _
    | exact h.deadlineCame _ _
    | exact h.enterSetup _ _
    | exact h.beginBurst _ _
    | exact h.burstDone _ _ _ _ _
    | exact h.holdEnd _ _

end Sys2Proof.Machine
end

