-- ==== Sys2Proof/Laws/Handlers.lean ====
section
/-! SUPPORT. What the handlers of parcels, requests and link events leave alone, the words of the statements by the
model's own functions, and the two outcomes of an acquire edge after a restart in SYNCING. -/

namespace Sys2Proof.Machine

variable (a : Part) (p : Panel) (s : State)

/-! ### Arrival -/

/-- A part that neither the handler of a parcel nor the receiver's return to HUNT changes. -/
theorem get_onArrival {c : Instr} {handle : State → State} (h : ∀ u, (handle u).get a = u.get a)
    (hr : a ≠ .receiver) : (onArrival c handle s).get a = s.get a := by
  unfold onArrival
  split
  · rw [h, get_toHunt _ _ hr]
  · rfl

/-- A part that neither the execution of a request nor MGMT_DROP changes. -/
theorem get_onRequest {c : Instr} {execute : State → State} (h : ∀ u, (execute u).get a = u.get a)
    (hr : a ∉ .receiver :: noticeParts) : (onRequest c execute s).get a = s.get a := by
  simp only [List.mem_cons, not_or] at hr
  refine get_onArrival a s (fun u => ?_) hr.1
  split
  · exact h u
  · exact get_occur _ _ _ _ hr.2

/-- A relation that holds of each outcome of a parcel's arrival. -/
theorem onArrival_cases {P : State → Prop} {c : Instr} {handle : State → State} (hs : P s)
    (ha : P (handle (toHunt s))) : P (onArrival c handle s) := by
  unfold onArrival; split <;> assumption

/-- A relation that holds of each outcome of a request's arrival. -/
theorem onRequest_cases {P : State → Prop} {c : Instr} {execute : State → State} (hs : P s)
    (hx : s.link.replyCount < Config.replyCap → P (execute (toHunt s))) (hd : P (occur (.part .mgmtDrop) 0 (toHunt s))) :
    P (onRequest c execute s) := by
  refine onArrival_cases s hs ?_
  split
  · rename_i h; exact hx h
  · exact hd

/-! ### The words of the statements, by the model's own functions -/

theorem afterPending_eq : afterPending p s = applyPending p s := rfl

theorem judge_true_eq (v : Supervision) (limit : Nat) : v.judge true limit = judgedBad limit v := by
  unfold Supervision.judge judgedBad
  cases v.mode <;> simp [decideMode, staleAfter]

theorem seq_retune (old new : PanelDescriptor) : (retune p old new s).seq p = retuned old new (s.seq p) := by
  unfold retune retuned
  by_cases h1 : old.width = new.width <;> by_cases h2 : old.linePeriod = new.linePeriod <;> simp [h1, h2]

theorem mayTakeA_iff : s.arb.mayTakeA p = true ↔ FreeFor s p .a := by
  unfold Arbiter.mayTakeA Arbiter.keptFromA FreeFor
  rcases s.arb.reservation with _ | v
  · simp
  · cases hv : v.a <;> simp [hv]

theorem mayTakeB_iff : s.arb.mayTakeB p = true ↔ FreeFor s p .b := by
  unfold Arbiter.mayTakeB Arbiter.keptFromB FreeFor
  rcases s.arb.reservation with _ | v
  · simp
  · cases hv : v.b <;> simp [hv]

theorem canMeet_iff (r : Request) (h : (s.claim p).request = some r) (hn : r.need = 1 ∨ r.need = 2) :
    s.canGrant p = true ↔ CanMeet s p r := by
  simp only [State.canGrant, h, CanMeet, ← mayTakeA_iff, ← mayTakeB_iff, decide_eq_true_eq]
  rcases hn with hn | hn <;> cases s.arb.mayTakeA p <;> cases s.arb.mayTakeB p <;> simp [hn]

/-! ### Acquire edges -/

/-- The first acquire edge after a restart in SYNCING does nothing but take the free value, or is then taken as any other
(R26; log 32). -/
theorem acquireAfterCut_cases :
    let c := { modSeq p (fun q => { q with cutShort := false }) s with openOrders := s.openOrders + 1 }
    acquireAfterCut p s = c ∨ acquireAfterCut p s = takeAcquire p c := by
  unfold acquireAfterCut
  dsimp only
  split
  · exact .inl rfl
  · exact .inr rfl

/-! ### Frame markers and lines -/

theorem get_openFrame (f : Word) (h : a ∉ .ingress p :: senseParts) : (openFrame p f s).get a = s.get a := by
  simp only [List.mem_cons, not_or] at h
  have hp := not_sense a h.2 p
  have hn : a ∉ noticeParts := by simp [noticeParts, hp]
  have hc : ∀ u, (closeUnclosed p u).get a = u.get a := fun u => by
    unfold closeUnclosed; split <;> simp [hn, h]
  unfold openFrame appendOrRefuse
  repeat' split
  all_goals simp [hn, h, hc]

theorem get_closeFrame (f : Word) (h : a ∉ .ingress p :: noticeParts) : (closeFrame p f s).get a = s.get a := by
  simp only [List.mem_cons, not_or] at h
  unfold closeFrame
  split <;> simp [h]

theorem get_takeLine (f : Word) (y : Nat) (pxs : List Pixel) (h : a ∉ poolParts p ++ noticeParts) :
    (takeLine p f y pxs s).get a = s.get a := by
  simp only [List.mem_append, not_or] at h
  unfold takeLine
  split <;> simp [h]

/-! ### Management requests -/

/-- The parts a reply changes. -/
def replyParts : List Part := [.queue, .replyCount]

theorem get_setPrio (src : Source) (n : Nat) (h : a ≠ .priorities) :
    (modNotices (fun u => u.setPrio src n) s).get a = s.get a := by
  cases a <;> first | rfl | exact absurd rfl h | skip
  all_goals (cases src <;> rfl)

theorem get_setPriority (src : Source) (n : Nat) (h : a ∉ .priorities :: noticeParts) :
    (setPriority src n s).get a = s.get a := by
  simp only [List.mem_cons, not_or] at h
  unfold setPriority
  dsimp only
  split
  · rw [get_makeChoice _ _ h.2, get_setPrio _ _ _ _ h.1]
  · rw [get_setPrio _ _ _ _ h.1]

theorem get_writeEffect (panel table : Byte) (i : Nat) (payload : List Byte)
    (h : a ∉ .mgmt .p0 :: .mgmt .p1 :: .priorities :: noticeParts) :
    (writeEffect panel table i payload s).1.get a = s.get a := by
  simp only [List.mem_cons, not_or] at h
  have hm : ∀ q, a ≠ .mgmt q := fun q => by cases q; exact h.1; exact h.2.1
  unfold writeEffect stageEntry
  repeat' split
  all_goals first
    | rfl
    | exact get_modMgmt _ _ _ _ (hm _)
    | exact get_setPriority _ _ _ _ (by simp [h])

theorem get_doWrite (panel tag table : Byte) (i : Nat) (payload : List Byte)
    (h : a ∉ .mgmt .p0 :: .mgmt .p1 :: .priorities :: .replyCount :: noticeParts) :
    (doWrite panel tag table i payload s).get a = s.get a := by
  simp [noticeParts] at h
  unfold doWrite
  dsimp only
  rw [get_offerReply _ _ _ (by simp [h]), get_writeEffect _ _ _ _ _ _ (by simp [noticeParts, h])]

theorem get_doRead (panel tag table copy : Byte) (i : Nat) (h : a ∉ replyParts) :
    (doRead panel tag table copy i s).get a = s.get a := get_offerReply _ _ _ h

theorem get_withPanel {panel tag : Byte} {run : Panel → State → State} (hr : a ∉ replyParts)
    (h : ∀ p u, (run p u).get a = u.get a) : (withPanel panel tag run s).get a = s.get a := by
  unfold withPanel
  split
  · exact get_replyCommand _ _ _ _ _ hr
  · exact h _ _

/-- A relation that holds of each outcome of a command with a panel operand. -/
theorem withPanel_cases {P : State → Prop} {panel tag : Byte} {run : Panel → State → State}
    (hb : P (replyCommand panel tag .badIndex s)) (h : ∀ p, P (run p s)) : P (withPanel panel tag run s) := by
  unfold withPanel
  split
  · exact hb
  · exact h _

theorem get_doStart (panel tag : Byte) (h : a ∉ .seq p :: replyParts) : (doStart panel tag p s).get a = s.get a := by
  simp [replyParts] at h
  unfold doStart startPanel
  split <;> simp [h]

theorem get_doLock (panel tag : Byte) (h : a ∉ .mgmt p :: replyParts) : (doLock panel tag p s).get a = s.get a := by
  simp [replyParts] at h
  unfold doLock
  split <;> simp [h]

theorem get_doClear (panel tag source : Byte) (h : a ∉ .flags :: replyParts) :
    (doClear panel tag source s).get a = s.get a := by
  simp [replyParts] at h
  unfold doClear clearFlag
  repeat' split
  all_goals simp [h]

theorem get_doResetBaseline (panel tag : Byte) (h : a ∉ .touch p :: replyParts) :
    (doResetBaseline panel tag p s).get a = s.get a := by
  simp [replyParts] at h
  unfold doResetBaseline
  simp [h]

/-! ### The head link -/

theorem get_setRx (r : Receiver) (h : a ≠ .receiver) : (setRx r s).get a = s.get a := by
  cases a <;> first | rfl | exact absurd rfl h

theorem get_setLinkState (st : LinkState) (h : a ≠ .linkState) : (setLinkState st s).get a = s.get a := by
  cases a <;> first | rfl | exact absurd rfl h

theorem get_enterUp (h : a ∉ .linkState :: noticeParts) : (enterUp s).get a = s.get a := by
  simp only [List.mem_cons, not_or] at h
  unfold enterUp
  rw [get_reportAble _ _ h.2, get_occur _ _ _ _ h.2, get_setLinkState _ _ _ h.1]

theorem get_flushed (x : OutParcel) (h : a ∉ [Part.flags, .touch .p0, .touch .p1]) : (flushed x s).get a = s.get a := by
  simp at h
  have ht : ∀ q, a ≠ .touch q := fun q => by cases q; exact h.2.1; exact h.2.2
  unfold flushed
  repeat' split
  all_goals simp [h, ht]

theorem get_flushAll (l : List OutParcel) (h : a ∉ [Part.flags, .touch .p0, .touch .p1]) :
    (flushAll l s).get a = s.get a := by
  induction l generalizing s with
  | nil => rfl
  | cons x l ih => rw [flushAll, ih, get_flushed _ _ _ h]

theorem get_leaveUp (st : LinkState) (h : a ∉ .flags :: .able :: .touch .p0 :: .touch .p1 :: linkParts) :
    (leaveUp st s).get a = s.get a := by
  unfold leaveUp
  dsimp only
  rw [get_flushAll _ _ _ (by simp [linkParts] at h ⊢; simp [h]), get_setAble _ _ _ (by rintro rfl; exact h (by decide))]
  cases a <;> first | rfl | exact absurd (by decide) h

theorem get_examineHeader (bytes : List Byte) (hd : Header) (h : a ∉ .receiver :: noticeParts) :
    (examineHeader bytes hd s).get a = s.get a := by
  simp only [List.mem_cons, not_or] at h
  unfold examineHeader
  split <;> simp [get_setRx, h]

theorem get_completed (x : OutParcel) (h : a ∉ .replyCount :: noticeParts) : (completed x s).get a = s.get a := by
  simp only [List.mem_cons, not_or] at h
  unfold completed
  split <;> try rfl
  · cases a <;> first | rfl | exact absurd rfl h.1
  · exact get_completeNotice _ _ _ h.2

end Sys2Proof.Machine
end

