-- ==== Sys2Proof/Laws/Memory.lean ====
section
/-! SUPPORT. The sparse stores: reads after writes, and the canonical form every operation keeps (R52, R108). -/

namespace Sys2Proof.Machine

section Sparse
variable {α : Type} [DecidableEq α] (d : α)

/-- Every key of a list is above `k`. -/
def Sparse.above (k : Nat) (m : List (Nat × α)) : Prop := ∀ e ∈ m, k < e.1

theorem Sparse.wf_cons (k : Nat) (v : α) (m : List (Nat × α)) :
    Sparse.wf d ((k, v) :: m) = true ↔ v ≠ d ∧ Sparse.above k m ∧ Sparse.wf d m = true := by
  simp [Sparse.wf, Sparse.above, and_assoc]

omit [DecidableEq α] in
theorem Sparse.get_of_above {k : Nat} {m : List (Nat × α)} (h : Sparse.above k m) {a : Nat} (ha : a ≤ k) :
    Sparse.get d m a = d := by
  induction m with
  | nil => rfl
  | cons e m ih =>
    have h1 : k < e.1 := h e (by simp)
    have h2 : Sparse.above k m := fun x hx => h x (by simp [hx])
    obtain ⟨k', v⟩ := e
    simp only [Sparse.get]
    rw [if_neg (by simp at h1; omega), ih h2]

theorem Sparse.above_set {k a : Nat} {v : α} {m : List (Nat × α)} (h : Sparse.above k m) (ha : k < a) :
    Sparse.above k (Sparse.set d m a v) := by
  induction m with
  | nil => simp only [Sparse.set]; split <;> simp [Sparse.above, ha]
  | cons e m ih =>
    obtain ⟨k', w⟩ := e
    have h1 : k < k' := h (k', w) (by simp)
    have h2 : Sparse.above k m := fun x hx => h x (by simp [hx])
    have ih := ih h2
    simp only [Sparse.set]
    split
    · split
      · exact h
      · intro x hx; simp at hx; rcases hx with rfl | rfl | hx
        · exact ha
        · exact h1
        · exact h2 x hx
    · split
      · split
        · exact h2
        · intro x hx; simp at hx; rcases hx with rfl | hx
          · exact ha
          · exact h2 x hx
      · intro x hx; simp at hx; rcases hx with rfl | hx
        · exact h1
        · exact ih x hx

/-- Writing keeps the canonical form. -/
theorem Sparse.wf_set {m : List (Nat × α)} (h : Sparse.wf d m = true) (a : Nat) (v : α) :
    Sparse.wf d (Sparse.set d m a v) = true := by
  induction m with
  | nil => simp only [Sparse.set]; split <;> simp_all [Sparse.wf]
  | cons e m ih =>
    obtain ⟨k, w⟩ := e
    obtain ⟨h1, h2, h3⟩ := (Sparse.wf_cons d k w m).1 h
    simp only [Sparse.set]
    split
    · split
      · exact h
      · rename_i hak hv
        refine (Sparse.wf_cons d a v _).2 ⟨hv, ?_, h⟩
        intro x hx; simp at hx; rcases hx with rfl | hx
        · exact hak
        · exact Nat.lt_trans hak (h2 x hx)
    · split
      · split
        · exact h3
        · rename_i hak heq hv
          subst heq; exact (Sparse.wf_cons d a v m).2 ⟨hv, h2, h3⟩
      · rename_i h4 h5
        exact (Sparse.wf_cons d k w _).2 ⟨h1, Sparse.above_set d h2 (by omega), ih h3⟩

/-- A read after a write gives the value written at its key, and leaves every other key alone. -/
theorem Sparse.get_set {m : List (Nat × α)} (h : Sparse.wf d m = true) (a b : Nat) (v : α) :
    Sparse.get d (Sparse.set d m a v) b = if b = a then v else Sparse.get d m b := by
  induction m with
  | nil =>
    simp only [Sparse.set]
    by_cases hv : v = d
    · simp [hv, Sparse.get]
    · simp only [hv, if_false, Sparse.get]; by_cases hb : b = a
      · simp [hb]
      · simp [hb, Ne.symm hb]
  | cons e m ih =>
    obtain ⟨k, w⟩ := e
    obtain ⟨h1, h2, h3⟩ := (Sparse.wf_cons d k w m).1 h
    have ih := ih h3
    simp only [Sparse.set]
    by_cases hak : a < k
    · simp only [hak, if_true]
      by_cases hv : v = d
      · simp only [hv, if_true]
        by_cases hb : b = a
        · subst hb; simp only [if_true, Sparse.get]; rw [if_neg (by omega)]
          exact Sparse.get_of_above d h2 (by omega)
        · simp [hb]
      · simp only [hv, if_false, Sparse.get]
        by_cases hb : b = a
        · simp [hb]
        · simp [hb, Ne.symm hb]
    · simp only [hak, if_false]
      by_cases heq : a = k
      · subst heq
        simp only [if_true]
        by_cases hv : v = d
        · simp only [hv, if_true, Sparse.get]
          by_cases hb : b = a
          · subst hb; simp; exact Sparse.get_of_above d h2 (Nat.le_refl _)
          · simp [hb, Ne.symm hb]
        · simp only [hv, if_false, Sparse.get]
          by_cases hb : b = a
          · simp [hb]
          · simp [hb, Ne.symm hb]
      · simp only [heq, if_false, Sparse.get]
        by_cases hkb : k = b
        · subst hkb; simp [Ne.symm heq]
        · simp [hkb, ih]

theorem Sparse.above_map {k : Nat} (f : α → α) {m : List (Nat × α)} (h : Sparse.above k m) :
    Sparse.above k (Sparse.map d f m) := by
  induction m with
  | nil => exact h
  | cons e m ih =>
    have h2 : Sparse.above k m := fun x hx => h x (by simp [hx])
    simp only [Sparse.map]
    split
    · exact ih h2
    · intro x hx; simp at hx; rcases hx with rfl | hx
      · exact h e (by simp)
      · exact ih h2 x hx

theorem Sparse.wf_map (f : α → α) {m : List (Nat × α)} (h : Sparse.wf d m = true) :
    Sparse.wf d (Sparse.map d f m) = true := by
  induction m with
  | nil => rfl
  | cons e m ih =>
    obtain ⟨k, w⟩ := e
    obtain ⟨_, h2, h3⟩ := (Sparse.wf_cons d k w m).1 h
    simp only [Sparse.map]
    split
    · exact ih h3
    · rename_i hv
      exact (Sparse.wf_cons d k (f w) _).2 ⟨hv, Sparse.above_map d f h2, ih h3⟩

/-- A map reads, at every key, as the function of what was there. -/
theorem Sparse.get_map (f : α → α) (hf : f d = d) {m : List (Nat × α)} (h : Sparse.wf d m = true) (a : Nat) :
    Sparse.get d (Sparse.map d f m) a = f (Sparse.get d m a) := by
  induction m with
  | nil => simp [Sparse.map, Sparse.get, hf]
  | cons e m ih =>
    obtain ⟨k, w⟩ := e
    obtain ⟨_, h2, h3⟩ := (Sparse.wf_cons d k w m).1 h
    simp only [Sparse.map, Sparse.get]
    split
    · rename_i hv
      by_cases hk : k = a
      · subst hk; simp [hv, Sparse.get_of_above d (Sparse.above_map d f h2) (Nat.le_refl _)]
      · simp [hk, ih h3]
    · simp only [Sparse.get]
      by_cases hk : k = a
      · simp [hk]
      · simp [hk, ih h3]

theorem Sparse.wf_filter (q : Nat × α → Bool) {m : List (Nat × α)} (h : Sparse.wf d m = true) :
    Sparse.wf d (m.filter q) = true := by
  induction m with
  | nil => rfl
  | cons e m ih =>
    obtain ⟨k, w⟩ := e
    obtain ⟨h1, h2, h3⟩ := (Sparse.wf_cons d k w m).1 h
    by_cases hq : q (k, w) = true
    · rw [List.filter_cons_of_pos hq]
      exact (Sparse.wf_cons d k w _).2 ⟨h1, fun x hx => h2 x (List.mem_filter.1 hx).1, ih h3⟩
    · rw [List.filter_cons_of_neg hq]; exact ih h3

/-- What a write can add to the keys. -/
theorem Sparse.mem_set {m : List (Nat × α)} {a : Nat} {v : α} {e : Nat × α} (h : e ∈ Sparse.set d m a v) :
    e ∈ m ∨ e.1 = a := by
  induction m with
  | nil => simp only [Sparse.set] at h; split at h <;> simp_all
  | cons x m ih =>
    obtain ⟨k, w⟩ := x
    simp only [Sparse.set] at h
    split at h
    · split at h
      · exact .inl h
      · simp at h; rcases h with rfl | h
        · exact .inr rfl
        · exact .inl (by simpa using h)
    · split at h
      · split at h
        · exact .inl (by simp [h])
        · simp at h; rcases h with rfl | h
          · exact .inr rfl
          · exact .inl (by simp [h])
      · simp at h; rcases h with rfl | h
        · exact .inl (by simp)
        · rcases ih h with h | h
          · exact .inl (by simp [h])
          · exact .inr h

end Sparse

/-! ### The Retained Store -/

theorem Memory.wf_write {m : Memory} (h : m.wf = true) (a : Nat) (v : Byte) : (m.write a v).wf = true :=
  Sparse.wf_set _ h a v

theorem Memory.read_write {m : Memory} (h : m.wf = true) (a b : Nat) (v : Byte) :
    (m.write a v).read b = if b = a then v else m.read b := Sparse.get_set _ h a b v

theorem Memory.mem_write {m : Memory} {a : Nat} {v : Byte} {c : Host.Cell} (h : c ∈ m.write a v) :
    c ∈ m ∨ c.1 = a := Sparse.mem_set _ h

theorem Memory.wf_writePixel {m : Memory} (h : m.wf = true) (a : Nat) (px : Pixel) : (m.writePixel a px).wf = true :=
  Memory.wf_write (Memory.wf_write (Memory.wf_write h _ _) _ _) _ _

/-- A pixel's write changes its three bytes alone. -/
theorem Memory.read_writePixel {m : Memory} (h : m.wf = true) (a b : Nat) (px : Pixel) :
    (m.writePixel a px).read b =
      if b = a then px.red else if b = a + 1 then px.green else if b = a + 2 then px.blue else m.read b := by
  unfold Memory.writePixel
  rw [Memory.read_write (Memory.wf_write (Memory.wf_write h _ _) _ _), Memory.read_write (Memory.wf_write h _ _),
    Memory.read_write h]
  repeat' split
  all_goals first | rfl | omega

theorem Memory.readPixel_writePixel {m : Memory} (h : m.wf = true) (a : Nat) (px : Pixel) :
    (m.writePixel a px).readPixel a = px := by
  simp [Memory.readPixel, Memory.read_writePixel h]

theorem Memory.wf_foldl_write (f : Host.Cell → Nat) (l : List Host.Cell) {m : Memory} (h : m.wf = true) :
    (l.foldl (fun acc c => acc.write (f c) c.2) m).wf = true := by
  induction l generalizing m with
  | nil => exact h
  | cons c l ih => exact ih (Memory.wf_write h _ _)

theorem Memory.wf_copy {m : Memory} (h : m.wf = true) (src dst len : Nat) : (m.copy src dst len).wf = true :=
  Memory.wf_foldl_write _ _ (Sparse.wf_filter _ _ h)

theorem wf_writeRow (r : Region) (block y : Nat) (pxs : List Pixel) (x : Nat) {m : Memory} (h : m.wf = true) :
    (writeRow r block y x pxs m).wf = true := by
  induction pxs generalizing x m with
  | nil => exact h
  | cons px pxs ih => exact ih (x + 1) (Memory.wf_writePixel h _ _)

theorem wf_captureStore (y : Nat) (pxs : List Pixel) (rs : List (Region × RegionState)) {m : Memory}
    (h : m.wf = true) : (captureStore y pxs rs m).wf = true := by
  induction rs generalizing m with
  | nil => exact h
  | cons e rs ih =>
    simp only [captureStore]
    split
    · exact ih (wf_writeRow _ _ _ _ _ h)
    · exact ih h

theorem wf_fixedCopies (l : List ((Region × Region) × RegionState)) {m : Memory} (h : m.wf = true) :
    (fixedCopies l m).wf = true := by
  induction l generalizing m with
  | nil => exact h
  | cons e l ih =>
    obtain ⟨⟨old, new⟩, st⟩ := e
    simp only [fixedCopies, fixedCopy]
    split
    · exact ih (Memory.wf_copy h _ _ _)
    · exact ih h

/-- The memory right after reset has the canonical form. -/
theorem wf_reset_store : Memory.wf State.reset.store = true := rfl

end Sys2Proof.Machine
end

