-- ==== Sys2Proof/Laws/Mgmt.lean ====
section
/-! SUPPORT. What each operation and each command can do to the tables of a panel (R126, R142 to R149). -/

namespace Sys2Proof.Machine

variable (p q : Panel) (s : State)

/-- The management state after the application of the staged set (R145). -/
def Mgmt.apply (m : Mgmt) : Mgmt := { m with active := m.staged, commitPending := false, committed := true }

/-- The management state stays as it is, or a pending commit has been applied. -/
def Mgmt.MayApply (m m' : Mgmt) : Prop := m' = m ∨ (m.commitPending = true ∧ m' = m.apply)

theorem Mgmt.MayApply.refl (m : Mgmt) : m.MayApply m := .inl rfl

theorem Mgmt.MayApply.trans {m m' m'' : Mgmt} (h : m.MayApply m') (h' : m'.MayApply m'') : m.MayApply m'' := by
  rcases h with rfl | ⟨h, rfl⟩
  · exact h'
  · rcases h' with rfl | ⟨h', _⟩
    · exact .inr ⟨h, rfl⟩
    · simp [Mgmt.apply] at h'

theorem mgmt_of_get {s t : State} (h : t.get (.mgmt q) = s.get (.mgmt q)) : t.mgmt q = s.mgmt q := h

theorem mayApply_of_get {s t : State} (h : t.get (.mgmt q) = s.get (.mgmt q)) : (s.mgmt q).MayApply (t.mgmt q) :=
  .inl h

/-- The application of a commit, in the Management Unit. -/
theorem mgmt_applyCommit : (applyCommit p s).mgmt p = (s.mgmt p).apply := by
  unfold applyCommit
  dsimp only
  have h : ∀ old new : Tables, ∀ u : State, (touchCommit p old new u).mgmt p = u.mgmt p := fun old new u => by
    simp [touchCommit]
  rw [h, mgmt_of_get p (get_composerCommit _ _ _ _ _ (by simp)), mgmt_of_get p (get_retune _ _ _ _ _ (by simp)),
    mgmt_of_get p (get_reduceQuota _ _ _ _ (by simp [poolParts, noticeParts])),
    mgmt_of_get p (get_purgeOnGeometry _ _ _ _ _ (by simp [poolParts]))]
  simp [Mgmt.apply]

theorem mgmt_applyCommit_other (h : q ≠ p) : (applyCommit p s).mgmt q = s.mgmt q :=
  mgmt_of_get q (get_applyCommit _ _ _ (by simp [poolParts, noticeParts, h]))

theorem mgmt_applyPending : (s.mgmt p).MayApply ((applyPending p s).mgmt p) := by
  unfold applyPending
  split
  · rename_i h
    right
    rw [mgmt_of_get p (get_occurs _ _ _ _ (by simp [noticeParts])), mgmt_applyCommit]
    exact ⟨h, rfl⟩
  · exact .refl _

/-- What the operations of a panel can do to the tables: leave them, or apply a pending commit. -/
theorem mgmt_kept : Kept (fun s t => ∀ q, (s.mgmt q).MayApply (t.mgmt q)) where
  refl s q := .refl _
  trans h h' q := (h q).trans (h' q)
  seq p f s q := mayApply_of_get _ (by simp)
  claim p f s q := mayApply_of_get _ (by simp)
  arb f s q := mayApply_of_get _ (by simp)
  occur f i s q := mayApply_of_get _ (by simp [noticeParts])
  startCycle p s q := mayApply_of_get _ (by simp [noticeParts])
  deliver p g raws noise s q := mayApply_of_get _ (by simp [noticeParts])
  spanFrame p s q := mayApply_of_get _ (by simp)
  restartTouch p s q := mayApply_of_get _ (by simp)
  beginSlot p s q := mayApply_of_get _ (by simp [poolParts])
  slotEnd p s q := mayApply_of_get _ (by simp [noticeParts, poolParts])
  quietPort p s q := mayApply_of_get _ (by simp)
  beginChecks p s q := mayApply_of_get _ (by simp)
  clearFrameWork p s q := mayApply_of_get _ (by simp)
  applyPending p s q := by
    by_cases h : q = p
    · subst h; exact mgmt_applyPending q s
    · exact mayApply_of_get _ (get_applyPending _ _ _ (by simp [poolParts, noticeParts, h]))
  modeTakesEffect p s q := mayApply_of_get _ (by simp [poolParts, noticeParts])
  ingressFrameStart p s q := mayApply_of_get _ (by simp [poolParts])
  freeHeld p s q := mayApply_of_get _ (by simp [poolParts])
  emptyIngress p s q := mayApply_of_get _ (by simp [poolParts])
  sup p f s q := mayApply_of_get _ (by simp)
  openOrders n s q := mayApply_of_get _ (by simp)

end Sys2Proof.Machine
end

