-- ==== Sys2Proof/Laws/Notices.lean ====
section
/-! SUPPORT. The Notice Table's reads after its writes, and what an occurrence does to every flag. -/

namespace Sys2Proof.Machine

theorem PartSource.idx_inj {a b : PartSource} (h : a.idx = b.idx) : a = b := by
  cases a <;> cases b <;> first | rfl | exact absurd h (by decide)

theorem PanelSource.idx_inj {a b : PanelSource} (h : a.idx = b.idx) : a = b := by
  cases a <;> cases b <;> first | rfl | exact absurd h (by decide)

/-- Reading a flag after a flag was written. -/
theorem flag_setFlag (u : NoticeUnit) (f g : FlagId) (x : Flag) :
    (u.setFlag f x).flag g = if g = f then x else u.flag g := by
  cases f with
  | part a =>
    cases g with
    | part b =>
      by_cases h : b = a
      · subst h; simp [NoticeUnit.setFlag, NoticeUnit.flag]
      · have : (a.idx : Nat) ≠ b.idx := fun e => h (PartSource.idx_inj (Fin.ext e.symm))
        simp [NoticeUnit.setFlag, NoticeUnit.flag, h, this]
    | panel b q => cases q <;> simp [NoticeUnit.setFlag, NoticeUnit.flag]
  | panel a p =>
    cases g with
    | part b => cases p <;> simp [NoticeUnit.setFlag, NoticeUnit.flag]
    | panel b q =>
      by_cases h : b = a
      · subst h; cases p <;> cases q <;> simp [NoticeUnit.setFlag, NoticeUnit.flag]
      · have : (a.idx : Nat) ≠ b.idx := fun e => h (PanelSource.idx_inj (Fin.ext e.symm))
        cases p <;> cases q <;> simp [NoticeUnit.setFlag, NoticeUnit.flag, h, this]

/-- Writing a flag leaves every priority. -/
@[simp] theorem prio_setFlag (u : NoticeUnit) (f : FlagId) (x : Flag) (src : Source) :
    (u.setFlag f x).prio src = u.prio src := by
  cases f with
  | part => cases src <;> rfl
  | panel _ p => cases p <;> cases src <;> rfl

/-- Writing a flag leaves the able state. -/
@[simp] theorem able_setFlag (u : NoticeUnit) (f : FlagId) (x : Flag) : (u.setFlag f x).able = u.able := by
  cases f with
  | part => rfl
  | panel _ p => cases p <;> rfl

/-- Reading a priority after a priority was written. -/
theorem prio_setPrio (u : NoticeUnit) (a b : Source) (n : Nat) :
    (u.setPrio a n).prio b = if b = a then n else u.prio b := by
  cases a with
  | part a =>
    cases b with
    | part b =>
      by_cases h : b = a
      · subst h; simp [NoticeUnit.setPrio, NoticeUnit.prio]
      · have : (a.idx : Nat) ≠ b.idx := fun e => h (PartSource.idx_inj (Fin.ext e.symm))
        simp [NoticeUnit.setPrio, NoticeUnit.prio, h, this]
    | panel b => simp [NoticeUnit.setPrio, NoticeUnit.prio]
  | panel a =>
    cases b with
    | part b => simp [NoticeUnit.setPrio, NoticeUnit.prio]
    | panel b =>
      by_cases h : b = a
      · subst h; simp [NoticeUnit.setPrio, NoticeUnit.prio]
      · have : (a.idx : Nat) ≠ b.idx := fun e => h (PanelSource.idx_inj (Fin.ext e.symm))
        simp [NoticeUnit.setPrio, NoticeUnit.prio, h, this]

/-- Writing a priority leaves every flag. -/
@[simp] theorem flag_setPrio (u : NoticeUnit) (src : Source) (n : Nat) (f : FlagId) :
    (u.setPrio src n).flag f = u.flag f := by
  cases f with
  | part => cases src <;> rfl
  | panel _ p => cases p <;> cases src <;> rfl

/-- Writing a priority leaves the able state. -/
@[simp] theorem able_setPrio (u : NoticeUnit) (src : Source) (n : Nat) : (u.setPrio src n).able = u.able := by
  cases src <;> rfl

/-! ### The choice and occurrences -/

/-- A placed notice moves its flag alone. -/
theorem flag_placeNotice (f g : FlagId) (s : State) :
    (placeNotice f s).flag g = if g = f then { s.flag f with state := .inQueue } else s.flag g :=
  flag_setFlag _ _ _ _

/-- The choice keeps every flag's count, info value and late mark. -/
theorem flag_makeChoice (g : FlagId) (s : State) :
    ((makeChoice s).flag g).count = (s.flag g).count ∧ ((makeChoice s).flag g).info = (s.flag g).info ∧
      ((makeChoice s).flag g).late = (s.flag g).late := by
  unfold makeChoice
  split
  · split
    · rw [flag_placeNotice]; split
      · rename_i h; subst h; exact ⟨rfl, rfl, rfl⟩
      · exact ⟨rfl, rfl, rfl⟩
    · exact ⟨rfl, rfl, rfl⟩
  · exact ⟨rfl, rfl, rfl⟩

/-- An occurrence raises its flag's count and leaves the others'. -/
theorem count_occur (f g : FlagId) (info : Word) (s : State) :
    ((occur f info s).flag g).count = if g = f then min 255 ((s.flag f).count + 1) else (s.flag g).count := by
  have key : ((modNotices (fun u => u.setFlag f ((u.flag f).occur info)) s).flag g).count =
      if g = f then min 255 ((s.flag f).count + 1) else (s.flag g).count := by
    show ((s.notices.setFlag f _).flag g).count = _
    rw [flag_setFlag]; split <;> rfl
  unfold occur
  dsimp only
  split
  · rw [(flag_makeChoice _ _).1, key]
  · exact key

theorem count_occurs (src : PanelSource) (p : Panel) (g : FlagId) (s : State) :
    ((occurs src p s).flag g).count =
      if g = .panel src p then min 255 ((s.flag (.panel src p)).count + 1) else (s.flag g).count :=
  count_occur _ _ _ _

/-- The queue after a choice is the queue before it, with at most one notice behind. -/
theorem queue_makeChoice (s : State) :
    ∃ sent, (makeChoice s).link.queue = s.link.queue ++ sent ∧ sent.all OutParcel.isNotice = true := by
  unfold makeChoice
  split
  · split
    · exact ⟨[_], rfl, rfl⟩
    · exact ⟨[], by simp, rfl⟩
  · exact ⟨[], by simp, rfl⟩

/-- The queue after an occurrence. -/
theorem queue_occur (f : FlagId) (info : Word) (s : State) :
    ∃ sent, (occur f info s).link.queue = s.link.queue ++ sent ∧ sent.all OutParcel.isNotice = true := by
  unfold occur
  dsimp only
  split
  · exact queue_makeChoice _
  · exact ⟨[], by simp [modNotices], rfl⟩

end Sys2Proof.Machine
end

