-- ==== Sys2Proof/Tests/Slice0.lean ====
section
/-! SUPPORT. Tests: the well-formedness smoke tests, small tests of the commands, and for each statement with hypotheses
a state and operands that meet them. -/

namespace Sys2Proof.Tests

set_option Elab.async false

open Sys2Proof Sys2Proof.Machine

/-! ### Ill-formed commands are refused by the check -/

theorem test_wf_headerComplete : Instr.wf (.headerComplete []) = false ∧
    Instr.wf (.headerComplete (List.replicate 9 0)) = false ∧ Instr.wf (.headerComplete [0]) = true := by decide

theorem test_wf_inboundParcelDiscard : Instr.wf (.inboundParcelDiscard (List.replicate 13 0)) = false ∧
    Instr.wf (.inboundParcelDiscard (List.replicate 14 0)) = true := by decide

theorem test_wf_inboundParcelDiscard_long :
    Instr.wf (.inboundParcelDiscard (List.replicate 7697 0)) = false := by decide +kernel

theorem test_wf_line : Instr.wf (.line .p0 0 0 (List.replicate 2561 Pixel.black)) = false ∧
    Instr.wf (.line .p0 0 0 (List.replicate 2560 Pixel.black)) = true := by decide +kernel

theorem test_wf_writeEntry : Instr.wf (.writeEntry 0 0 0x05 0 [0]) = false ∧
    Instr.wf (.writeEntry 0 0 0x05 0 [0, 0]) = true ∧ Instr.wf (.writeEntry 0 0 0x0A 0 []) = true := by decide

theorem test_wf_writeEntry_long : Instr.wf (.writeEntry 0 0 0x0A 0 (List.replicate 7681 0)) = false := by
  decide +kernel

theorem test_wf_unknownCommand : Instr.wf (.unknownCommand 0 0 0x08) = false ∧
    Instr.wf (.unknownCommand 0 0 0x00) = true ∧ Instr.wf (.unknownCommand 0 0 0x09) = true := by decide

theorem test_wf_burstComplete : Instr.wf (.burstComplete .p0 [] 0) = false ∧
    Instr.wf (.burstComplete .p0 (List.replicate 33 0) 0) = false ∧
    Instr.wf (.burstComplete .p0 (List.replicate 32 0) 0) = true := by decide

/-! ### States -/

/-- What is known of a premise on the value an option may hold. -/
theorem ofSome {α : Type} {P : α → Prop} {o : Option α} (h : ∀ x ∈ o, P x) : ∀ x, o = some x → P x := h

theorem ofAll {α : Type} {f : α → Bool} {o : Option α} (h : o.all f = true) : ∀ x, o = some x → f x = true := by
  rintro x rfl
  exact h

/-- The state a command leaves. -/
def after (c : Instr) (s : State) : State :=
  match exec c s with
  | .next t => t
  | .fault _ => s
  | .refused _ => s

/-- The link is UP, nothing is queued and nothing runs. -/
def up : State :=
  { State.reset with
    link := { Link.reset with state := .up }
    notices := { NoticeUnit.reset with able := true } }

/-- Panel 0 has these tables, active and staged, by an applied commit. -/
def withTables (t : Tables) (s : State) : State :=
  modMgmt .p0 (fun m => { m with staged := t, active := t, committed := true }) s

/-- A commit has been applied to panel 0. -/
def committed : State := withTables (Tables.reset .p0) up

/-- Panel 0 waits for lock. -/
def syncing : State := modSeq .p0 (fun q => { q with run := .syncing }) committed

/-- Panel 0 runs, in a segment. -/
def runningIn (i : Nat) (s : State) : State :=
  modSeq .p0 (fun q => { q with run := .running, locked := true, segment := some i, linesLeft := 80 }) s

/-- Panel 0 drives line 0. -/
def driving : State := runningIn 0 committed

/-- Panel 0 drives the last line. -/
def lastLine : State :=
  modSeq .p0 (fun q => { q with progress := 63, linesDriven := 63, linePos := 63, linesLeft := 17 }) driving

/-- Panel 0 is in the last line period of its last segment. -/
def lastBlank : State :=
  modSeq .p0 (fun q => { q with progress := 15, linesDriven := 64, linePos := 63, frameEnd := true, linesLeft := 1 })
    (runningIn 1 committed)

/-- Tables with adaptive refresh and stretch sensing. -/
def adaptive : Tables :=
  { Tables.reset .p0 with
    pd := { PanelDescriptor.reset .p0 with refresh := .adaptive, stretchLimit := 2, stretchSensing := true } }

/-- Panel 0 stretches its frame. -/
def stretching : State :=
  modSeq .p0 (fun q => { q with run := .stretch, locked := true, frameEnd := true }) (withTables adaptive up)

/-- A timeline with one group between the last line and the blank lines, and three groups to scan, the first two halves wide. -/
def scanning : Tables :=
  { Tables.reset .p0 with
    timeline := ((timelineReset.set 1 ⟨.sense, 0, 1, 0⟩).set 2 ⟨.blank, 1, 0, 0⟩)
    groups := ((groupsReset.set 0 ⟨true, 0, 0, 20⟩).set 1 ⟨true, 1, 0, 2⟩).set 2 ⟨true, 2, 0, 2⟩
    pd := { PanelDescriptor.reset .p0 with columns := 20, rows := 3 } }

/-- Panel 0 holds half A in its SENSE segment, in a phase, with a number of groups to go. -/
def windowIn (ph : SensePhase) (k : Nat) (b : Option Burst) : State :=
  modArb (fun r => { r with a := ⟨some .p0, none⟩ })
    (modClaim .p0 (fun _ => ⟨none, some ⟨1, k, b⟩⟩)
      (modTouch .p0 (fun x => { x with cursor := 1 })
        (modSeq .p0 (fun q => { q with phase := ph, linesDriven := 64, linePos := 63, frameEnd := true, linesLeft := 1 })
          (runningIn 1 (withTables scanning up)))))

/-- Panel 0 waits for both halves, one of which panel 1 holds, and the other is reserved. -/
def waiting : State :=
  modArb (fun r => { r with a := ⟨some .p1, none⟩, reservation := some ⟨.p0, false, true⟩ })
    (modClaim .p0 (fun _ => ⟨some ⟨.timeline, 1, 2, some .wait, some 200⟩, none⟩)
      (modClaim .p1 (fun _ => ⟨none, some ⟨1, 1, none⟩⟩)
        (modSeq .p1 (fun q => { q with run := .stretch, locked := true, phase := .setup })
          (modSeq .p0 (fun q => { q with phase := .request, frameEnd := true, linesLeft := 1 })
            (runningIn 1 (withTables scanning up))))))

/-- Panel 0, in a stretch, holds half A for a FREE window in a phase. -/
def freeWindowIn (ph : SensePhase) (k : Nat) : State :=
  modArb (fun r => { r with a := ⟨some .p0, none⟩ })
    (modClaim .p0 (fun _ => ⟨none, some ⟨1, k, none⟩⟩) (modSeq .p0 (fun q => { q with phase := ph }) stretching))

/-- A host line of black pixels. -/
def slot (f : Word) (y : Nat) : LineSlot := ⟨f, y, List.replicate 64 Pixel.black⟩

/-- Panel 0 has an OPEN scan ticket for frame 5 and one line of it queued. -/
def ticketed (s : State) : State :=
  modIngress .p0 (fun g => { g with scan := some ⟨5, .opened, 1⟩, lastScan := some 5, queue := [slot 5 2] })
    { s with freeSlots := 95 }

/-- Two closed tickets wait on panel 0. -/
def twoWaiting (last : TicketState) (s : State) : State :=
  modIngress .p0 (fun g => { g with waiting := [⟨6, .closed, 0⟩, ⟨7, last, 0⟩] }) s

/-- The active and staged region 0 of panel 0. -/
def withRegion (r : Region) (s : State) : State :=
  withTables { Tables.reset .p0 with regions := (Vector.replicate 16 Region.reset).set 0 r } s

/-- A valid region of 2 × 2 pixels. -/
def square (source : RegionSource) (capture : Bool) : Region :=
  { Region.reset with valid := true, x1 := 1, y1 := 1, source := source, capture := capture }

/-- A flag of the unit in a state with a count. -/
def withFlag (f : FlagId) (st : FlagState) (n : Nat) (s : State) : State :=
  modNotices (fun u => u.setFlag f ⟨st, n, 0, false⟩) s

/-- The notice of `f`, with a count, is the one entry of the queue. -/
def noticed (f : FlagId) (n : Nat) : State :=
  withFlag f .inQueue n
    { up with
      link := { up.link with queue := [.notice ⟨f, n, none, 0, false⟩] }
      notices := { up.notices with able := false } }

/-- Four replies are queued. -/
def fullOfReplies : State :=
  { up with link := { up.link with
    queue := List.replicate 4 (.reply (statusReply .command 0 0 .ok)), replyCount := 4 } }

/-- The state with one command waiting. -/
def commanded (c : Instr) (s : State) : State := { s with pending := [c] }

theorem order_up : InOrder up := inOrder_of_check (by decide +kernel)
theorem order_committed : InOrder committed := inOrder_of_check (by decide +kernel)
/-- Panel 0 waits for lock after a restart that cut an acquisition short. -/
def restarted : State := after (.restartPanel 0 9) syncing

theorem order_syncing : InOrder syncing := inOrder_of_check (by decide +kernel)
theorem order_driving : InOrder driving := inOrder_of_check (by decide +kernel)
theorem order_restarted : InOrder restarted := inOrder_of_check (by decide +kernel)
theorem order_lastBlank : InOrder lastBlank := inOrder_of_check (by decide +kernel)
theorem order_stretching : InOrder stretching := inOrder_of_check (by decide +kernel)
theorem order_ticketed : InOrder (ticketed driving) := inOrder_of_check (by decide +kernel)

/-! ### Each command's step, on a small state -/

theorem test_powerOnReset : (after .powerOnReset driving).resetPin = true ∧
    (after .powerOnReset driving).pan0 = PanelState.reset .p0 := by decide +kernel

theorem test_resetRelease : (after .resetRelease (after .powerOnReset driving)).resetPin = false := by decide +kernel

theorem test_signalDetect : (after .signalDetect State.reset).link.state = .training := by decide +kernel

theorem test_trainingSuccess :
    let t := after .trainingSuccess { State.reset with link := { Link.reset with state := .training } }
    t.link.state = .up ∧ (t.flag (.part .linkUp)).state = .inQueue ∧ t.link.queue.length = 1 := by decide +kernel

theorem test_alignmentLoss : (after .alignmentLoss (noticed (.panel .stray .p0) 1)).link.state = .training ∧
    ((after .alignmentLoss (noticed (.panel .stray .p0) 1)).flag (.panel .stray .p0)).state = .pending ∧
    ((after .alignmentLoss up).flag (.part .linkRetrain)).state = .pending := by decide +kernel

theorem test_signalLoss : (after .signalLoss up).link.state = .down ∧
    ((after .signalLoss up).flag (.part .linkRetrain)).state = .clear := by decide +kernel

theorem test_syncValueReceived : (after .syncValueReceived up).link.rx = .header [0xA7] := by decide +kernel

/-- The header of FRAME_OPEN on panel 0 with tag 0: A7 01 00 00 00 00, check 58FE. -/
theorem test_headerComplete_good :
    (after (.headerComplete [0x01, 0, 0, 0, 0, 0x58, 0xFE]) (after .syncValueReceived up)).link.rx =
      .body [0xA7, 0x01, 0, 0, 0, 0, 0x58, 0xFE] := by decide +kernel

/-- The same header with the sync value in front, for a receiver in HUNT. -/
theorem test_headerComplete_hunt : (after (.headerComplete [0xA7, 0x01, 0, 0, 0, 0, 0x58, 0xFE]) up).link.rx =
    .body [0xA7, 0x01, 0, 0, 0, 0, 0x58, 0xFE] := by decide +kernel

theorem test_headerComplete_bad :
    let t := after (.headerComplete [0x01, 0, 0xA7, 0, 0, 0x58, 0xFE]) (after .syncValueReceived up)
    t.link.rx = .header [0xA7, 0, 0, 0x58, 0xFE] ∧ (t.flag (.part .badParcel)).count = 1 := by decide +kernel

/-- A whole FRAME_OPEN parcel for panel 2 with a good CRC. -/
def panel2Parcel : List Byte := withCrc (headerBytes 0x01 2 0 0 ++ [0, 5])

theorem test_inboundParcelDiscard :
    ((after (.inboundParcelDiscard panel2Parcel) up).flag (.part .badParcel)).count = 1 := by decide +kernel

theorem test_frameOpen : ((after (.frameOpen .p0 7) driving).ingress .p0).waiting = [⟨7, .opened, 0⟩] ∧
    ((after (.frameOpen .p0 7) up).flag (.panel .stray .p0)).count = 1 := by decide +kernel

theorem test_frameClose : ((after (.frameClose .p0 5) (ticketed driving)).ingress .p0).scan = some ⟨5, .closed, 1⟩ := by
  decide +kernel

theorem test_line :
    let t := after (.line .p0 5 3 (List.replicate 64 Pixel.black)) (ticketed driving)
    (t.ingress .p0).queue = [slot 5 2, slot 5 3] ∧ t.freeSlots = 94 ∧
      (t.ingress .p0).scan = some ⟨5, .opened, 2⟩ := by decide +kernel

theorem test_line_late : ((after (.line .p0 5 0 (List.replicate 64 Pixel.black)) (ticketed driving)).flag
    (.panel .stray .p0)).count = 1 := by decide +kernel

theorem test_writeEntry : ((after (.writeEntry 0 9 0x05 1 [0x00, 0xC8]) up).mgmt .p0).staged.hops[1] = some 200 := by
  decide +kernel

theorem test_writeEntry_value : (after (.writeEntry 0 9 0x05 1 [0x00, 0xC9]) up).link.queue =
    [.reply (statusReply .writeEntry 0 9 .badValue)] := by decide +kernel

theorem test_readEntry : (after (.readEntry 0 9 0x02 0 1) up).link.queue =
    [.reply { statusReply .readEntry 0 9 .ok with entry := [2, 16, 0, 0] }] := by decide +kernel

theorem test_commit : (after (.commit 0 9) up).link.queue =
      [.reply { statusReply .command 0 9 .ok with disposition := .applied }] ∧
    ((after (.commit 0 9) driving).mgmt .p0).commitPending = true := by decide +kernel

theorem test_startPanel : ((after (.startPanel 0 9) committed).seq .p0).run = .syncing ∧
    (after (.startPanel 0 9) up).link.queue = [.reply (statusReply .command 0 9 .state)] := by decide +kernel

theorem test_stopPanel : ((after (.stopPanel 0 9) driving).seq .p0).run = .disabled ∧
    (∀ c ∈ [Instr.stopPanel 0 9, .restartPanel 0 9], (after c { driving with store := [(5, 7)] }).store = [(5, 7)]) := by
  decide +kernel

theorem test_restartPanel : ((after (.restartPanel 0 9) driving).seq .p0).run = .syncing ∧
    ((after (.restartPanel 0 9) driving).sup .p0).stale = 1 ∧
    ((after (.restartPanel 0 9) driving).seq .p0).cutShort = false ∧ (restarted.seq .p0).cutShort = true ∧
    ((after (.stopPanel 0 9) restarted).seq .p0).cutShort = false := by
  decide +kernel

theorem test_lockSupervision : ((after (.lockSupervision 1 9) up).mgmt .p1).supLock = true := by decide +kernel

theorem test_clearNotice : (after (.clearNotice 0 9 0x1D) (withFlag (.panel .lockLost .p0) .announced 3 up)).flag
    (.panel .lockLost .p0) = ⟨.clear, 0, 0, false⟩ := by decide +kernel

theorem test_resetBaseline :
    ((after (.resetBaseline 1 9) (modTouch .p1 (fun x => { x with reseed := false }) up)).touch .p1).reseed = true := by
  decide +kernel

theorem test_resetPart : (after (.resetPart 0 9) driving).pan0 = PanelState.reset .p0 ∧
    (after (.resetPart 0 9) driving).link.queue = [.reply (statusReply .command 0 9 .ok)] := by decide +kernel

theorem test_unknownCommand : (after (.unknownCommand 0 9 0x55) up).link.queue =
    [.reply (statusReply .command 0 9 .badCmd)] := by decide +kernel

/-- The NOTICE of a STRAY on panel 0: header A7 82 00 00 00 00, check 587D, then the source 0x14 and the count 1. -/
theorem test_transmissionStart : (after .transmissionStart (noticed (.panel .stray .p0) 1)).link.sending.map (·.take 10) =
    some [0xA7, 0x82, 0, 0, 0, 0, 0x58, 0x7D, 0x14, 0x01] := by decide +kernel

theorem test_transmissionComplete :
    let t := after .transmissionComplete (after .transmissionStart (noticed (.panel .stray .p0) 1))
    t.link.queue = [] ∧ t.flag (.panel .stray .p0) = ⟨.clear, 0, 0, false⟩ ∧ t.notices.able = true := by decide +kernel

theorem test_acquireEdge : ((after (.acquireEdge .p0) syncing).seq .p0).run = .running ∧
    ((after (.acquireEdge .p0) syncing).seq .p0).linesLeft = 80 := by decide +kernel

theorem test_lossEdge : ((after (.lossEdge .p0) driving).seq .p0).run = .syncing ∧
    ((after (.lossEdge .p0) driving).flag (.panel .lockLost .p0)).count = 1 := by decide +kernel

theorem test_driveSlotEnd : ((after (.driveSlotEnd .p0) driving).seq .p0).linePos = 1 ∧
    ((after (.driveSlotEnd .p0) driving).ingress .p0).missing = 1 := by decide +kernel

theorem test_driveSlotEnd_last : ((after (.driveSlotEnd .p0) lastLine).seq .p0).segment = some 1 ∧
    ((after (.driveSlotEnd .p0) lastLine).sup .p0).stale = 1 := by decide +kernel

theorem test_blankLineEnd : ((after (.blankLineEnd .p0) lastBlank).seq .p0).segment = some 0 ∧
    ((after (.blankLineEnd .p0) lastBlank).seq .p0).linePos = 0 := by decide +kernel

theorem test_stretchLineBoundary : ((after (.stretchLineBoundary .p0) stretching).seq .p0).stretchCount = 1 := by
  decide +kernel

theorem test_stretchExpiry :
    let s := modSeq .p0 (fun q => { q with stretchCount := 1 }) stretching
    ((after (.stretchExpiry .p0) s).seq .p0).run = .running ∧
      ((after (.stretchExpiry .p0) s).flag (.panel .stretchExpired .p0)).count = 1 ∧
      after (.stretchExpiry .p0) stretching = stretching := by decide +kernel

theorem test_waitDeadline : ((after (.waitDeadline .p0) waiting).seq .p0).segment = some 2 ∧
    ((after (.waitDeadline .p0) waiting).flag (.panel .senseSkipped .p0)).count = 1 ∧
    (after (.waitDeadline .p0) waiting).arb.reservation = none := by decide +kernel

theorem test_switchGapEnd : ((after (.switchGapEnd .p0) (windowIn .switch 1 none)).seq .p0).phase = .setup := by
  decide +kernel

theorem test_setupGapEnd : ((after (.setupGapEnd .p0) (windowIn .setup 1 none)).claim .p0).window =
    some ⟨1, 1, some ⟨1, 150⟩⟩ := by decide +kernel

theorem test_burstComplete :
    let t := after (.burstComplete .p0 [40, 50] 7) (windowIn .burst 1 (some ⟨1, 150⟩))
    ((t.touch .p0).cell 1 1).raw = 50 ∧ (t.touch .p0).cursor = 2 ∧ (t.seq .p0).phase = .hold := by decide +kernel

theorem test_holdGapEnd :
    let t := after (.holdGapEnd .p0) (windowIn .hold 0 none)
    t.arb.a = ⟨none, some .p0⟩ ∧ (t.seq .p0).segment = some 2 := by decide +kernel

/-! ### The check values of R59 and R152 -/

/-- The check value of this CRC for the bytes of "123456789". -/
theorem test_crc32 : crc32 [0x31, 0x32, 0x33, 0x34, 0x35, 0x36, 0x37, 0x38, 0x39] = 0xCBF43926#32 := by decide +kernel

theorem test_crcPoly : crcPoly = BitVec.reverse 0x04C11DB7#32 := by decide +kernel

/-! ### For each statement with hypotheses, a state and operands that meet them -/

theorem witness_StepRunsFrontCommand :
    (commanded .transmissionStart up).pending = .transmissionStart :: [] ∧ up.pending = [] := by decide

theorem rangesOk_up : RangesOk up := rangesOk_of_check (by decide +kernel)

theorem witness_StepKeepsTables : ∃ t, MgmtOk (commanded (.commit 0 9) up) ∧ RangesOk (commanded (.commit 0 9) up) ∧
    step (commanded (.commit 0 9) up) = .next t :=
  ⟨_, mgmtOk_of_check (by decide +kernel), rangesOk_up, rfl⟩

theorem witness_StepKeepsPool : ∃ t, InOrder (commanded (.driveSlotEnd .p0) (ticketed driving)) ∧
    step (commanded (.driveSlotEnd .p0) (ticketed driving)) = .next t ∧
    ((ticketed driving).ingress .p0).queue.length < ((ticketed driving).pd .p0).quota :=
  ⟨_, inOrder_of_check (by decide +kernel), rfl, by decide +kernel⟩

/-- The hypotheses of StepKeepsStores, StepKeepsImages, StepKeepsTicketsAndQueues, StepKeepsPanelsAndSense and StepKeepsLinkAndNotices. -/
theorem witness_StepKeeps : ∃ t, InOrder (commanded (.holdGapEnd .p0) (windowIn .hold 0 none)) ∧
    step (commanded (.holdGapEnd .p0) (windowIn .hold 0 none)) = .next t :=
  ⟨_, inOrder_of_check (by decide +kernel), rfl⟩

/-- Frames 0, 30000 and 60000 follow one another, but 60000 is behind 0. -/
def wrapped : State :=
  modIngress .p0 (fun g =>
    { g with scan := some ⟨0, .closed, 1⟩, lastScan := some 0, waiting := [⟨30000, .closed, 1⟩, ⟨60000, .opened, 0⟩]
             queue := [slot 0 5, slot 30000 0] }) { driving with freeSlots := 94 }

/-- R7's sentence on any two entries of a Line Queue, taken literally, is not kept by the checks of R8: a queue that ascends
from entry to entry takes a line that is not after its first entry (log 31). -/
theorem test_ascending_from_entry_to_entry : InOrder wrapped ∧
    ((after (.line .p0 60000 0 (List.replicate 64 Pixel.black)) wrapped).ingress .p0).queue =
      [slot 0 5, slot 30000 0, slot 60000 0] ∧
    afterCheck (slot 0 5) (slot 30000 0) = true ∧ afterCheck (slot 30000 0) (slot 60000 0) = true ∧
    afterCheck (slot 0 5) (slot 60000 0) = false :=
  ⟨inOrder_of_check (by decide +kernel), by decide +kernel⟩

/-- Panel 0 has a locked fixed region, and shows its image. -/
def locked : State := withRegion { square .retained false with locked := true } up

theorem witness_LockedRegionIsFrozen : ∃ t r, MgmtOk (commanded (.commit 0 9) locked) ∧
    StoresOk (commanded (.commit 0 9) locked) ∧
    (commanded (.commit 0 9) locked).pending.head? ≠ some .powerOnReset ∧
    step (commanded (.commit 0 9) locked) = .next t ∧ (locked.tables .p0).regions[0]? = some r ∧ r.locked = true ∧
    r.valid = true ∧ r.mode = .fixed ∧ r.firstBlock * blockBytes ≤ 0 ∧ 0 < (r.firstBlock + r.imageBlocks) * blockBytes :=
  ⟨_, { square .retained false with locked := true }, mgmtOk_of_check (by decide +kernel),
    storesOk_of_check (by decide +kernel), by decide, rfl, by decide +kernel⟩

theorem witness_ParcelsReadBack : Instr.wf (.line .p1 7 3 [⟨1, 2, 3⟩]) = true ∧
    (parcelParts (.line .p1 7 3 [⟨1, 2, 3⟩])).isSome = true := by decide

theorem witness_EntriesReadBack :
    Entry.InRange .hopTable (.hop (some 500)) ∧ Entry.InRange .noticePriority (.priority 3) ∧
    Entry.InRange .groupTable (.group ⟨true, 47, 63, 32⟩) ∧
    Entry.InRange .frameTimeline (.segment ⟨.sense, 9, 8, 1⟩) ∧
    Entry.InRange .regionTable (.region { Region.reset with x1 := 2559, y1 := 1599, firstBlock := 63 }) ∧
    ([2, 1023, 0, 0] : List Word).length = TableId.frameTimeline.words ∧
    decodeEntry .frameTimeline [2, 1023, 0, 0] = some (.segment ⟨.blank, 1023, 0, 0⟩) := by
  refine ⟨?_, ?_, ?_, ?_, ?_, rfl, rfl⟩ <;> simp [Entry.InRange, Region.reset]

theorem witness_PowerOnReset : ∃ t, ResetHeld (commanded .signalDetect (after .powerOnReset driving)) ∧
    (commanded .signalDetect (after .powerOnReset driving)).resetPin = true ∧
    step (commanded .signalDetect (after .powerOnReset driving)) = .next t :=
  ⟨_, fun _ => by decide +kernel, by decide +kernel, rfl⟩

theorem witness_LinkStates : State.reset.link.state = .down ∧ State.reset.resetPin = false ∧
    (after .powerOnReset driving).link.state = .down ∧ (after .powerOnReset driving).resetPin = true ∧
    (after .signalDetect State.reset).link.state = .training ∧
    (after .signalDetect State.reset).notices.able = false ∧
    (noticed (.part .linkRetrain) 2).link.state = .up ∧ LinkOk (noticed (.part .linkRetrain) 2) :=
  ⟨by decide +kernel, by decide +kernel, by decide +kernel, by decide +kernel, by decide +kernel, by decide +kernel,
    by decide +kernel, linkOk_of_check (by decide +kernel)⟩

/-- A header with a bad check and no second sync value, one with one, one of no inbound kind, one that is too long and
a good one, each after the sync byte, which the bytes before leave in HEADER or which the command carries in HUNT. -/
theorem witness_HeaderReception : up.link.state = .up ∧ up.link.rx = .hunt ∧
    (after .syncValueReceived up).link.rx = .header [0xA7] ∧
    ([] : List Byte) ++ [0xA7#8, 0x01, 0, 0, 0, 0, 0x58, 0xFE] = [0xA7#8] ++ [0x01#8, 0, 0, 0, 0, 0x58, 0xFE] ∧
    ((0xA7#8 ++ 0x01#8 : Word) + (0#8 ++ 0#8) + (0#8 ++ 0#8) + (0x58#8 ++ 0xFF#8) ≠ 0xFFFF#16 ∧
      0xA7#8 ∉ [0x01#8, 0, 0, 0, 0, 0x58, 0xFF]) ∧
    ((0xA7#8 ++ 0x01#8 : Word) + (0#8 ++ 0xA7#8) + (0#8 ++ 0#8) + (0x58#8 ++ 0xFF#8) ≠ 0xFFFF#16 ∧
      0xA7#8 ∉ [0x01#8, 0] ∧ [0xA7#8, 0, 0, 0x58, 0xFF].head? = some 0xA7#8) ∧
    ((0xA7#8 ++ 0x20#8 : Word) + (0#8 ++ 0#8) + (0#8 ++ 0#8) + (0x58#8 ++ 0xDF#8) = 0xFFFF#16 ∧
      0x20#8 ∉ [0x01#8, 0x02#8, 0x03#8, 0x10#8, 0x11#8, 0x12#8]) ∧
    ((0xA7#8 ++ 0x02#8 : Word) + (0#8 ++ 0#8) + (0x1E#8 ++ 0x01#8) + (0x3A#8 ++ 0xFC#8) = 0xFFFF#16 ∧
      7680 < (0x1E#8 ++ 0x01#8 : Word).toNat) ∧
    ((0xA7#8 ++ 0x02#8 : Word) + (0#8 ++ 0#8) + (0x1E#8 ++ 0x00#8) + (0x3A#8 ++ 0xFD#8) = 0xFFFF#16 ∧
      0x02#8 ∈ [0x01#8, 0x02#8, 0x03#8, 0x10#8, 0x11#8, 0x12#8] ∧ (0x1E#8 ++ 0x00#8 : Word).toNat ≤ 7680) := by
  decide +kernel

/-- The premises of BadParcelIsDiscarded that every case shares. -/
def Discarded (bytes : List Byte) (h : Header) (k : InKind) : Prop :=
  Header.ofBytes (bytes.take 8) = some h ∧ h.sync = 0xA7#8 ∧ h.checkGood = true ∧ InKind.ofCode h.kind = some k ∧
  h.len.toNat ≤ 7680 ∧ bytes.length = 8 + k.paramSize + h.len.toNat + 4

/-- A FRAME_OPEN with a payload of 3 bytes, a WRITE_ENTRY to the Hop Table with 4, a FRAME_CLOSE with a wrong CRC and a
FRAME_OPEN of panel 2. -/
theorem witness_BadParcelIsDiscarded : up.link.state = .up ∧ up.link.rx = .hunt ∧
    (Discarded (withCrc (headerBytes 0x01 0 0 3 ++ [0, 5, 1, 2, 3])) ⟨0xA7, 0x01, 0, 0, 3, 0x58FB⟩ .frameOpen ∧
      InKind.frameOpen.lengthSuits 3 = false) ∧
    (Discarded (withCrc (headerBytes 0x10 0 0 4 ++ [5, 0, 0, 0, 1, 2, 3, 4])) ⟨0xA7, 0x10, 0, 0, 4, 0x58EB⟩ .writeEntry ∧
      (withCrc (headerBytes 0x10 0 0 4 ++ [5, 0, 0, 0, 1, 2, 3, 4]))[8]?.bind entrySize = some 2) ∧
    (Discarded (headerBytes 0x03 0 0 0 ++ [0, 5, 0, 0, 0, 0]) ⟨0xA7, 0x03, 0, 0, 0, 0x58FC⟩ .frameClose ∧
      [0, 0, 0, 0] ≠ dwordBytes (crc32 (headerBytes 0x03 0 0 0 ++ [0, 5]))) ∧
    (Discarded panel2Parcel ⟨0xA7, 0x01, 2, 0, 0, 0x56FE⟩ .frameOpen ∧ 1 < (2 : Byte).toNat) := by
  unfold Discarded
  decide +kernel

theorem witness_RequestsAreAnsweredOrDropped :
    (arrives (.commit 0 9) up = true ∧ Requests (.commit 0 9) .command 0 9 ∧ up.link.replyCount < 4) ∧
    (arrives (.readEntry 0 9 1 0 0) fullOfReplies = true ∧ Requests (.readEntry 0 9 1 0 0) .readEntry 0 9 ∧
      fullOfReplies.link.replyCount = 4) ∧
    (arrives (.writeEntry 0 9 0x05 0 [0, 0]) up = true ∧ Requests (.writeEntry 0 9 0x05 0 [0, 0]) .writeEntry 0 9) := by
  refine ⟨⟨by decide +kernel, ⟨rfl, rfl, rfl⟩, by decide +kernel⟩, ⟨by decide +kernel, ⟨rfl, rfl, rfl⟩, by decide +kernel⟩,
    by decide +kernel, rfl, rfl, rfl⟩

theorem witness_Transmission :
    (fullOfReplies.link.state = .up ∧ fullOfReplies.link.sending = none ∧
      fullOfReplies.link.queue = .reply (statusReply .command 0 0 .ok) ::
        List.replicate 3 (.reply (statusReply .command 0 0 .ok))) ∧
    (after .transmissionStart fullOfReplies).link.sending.isSome = true ∧
    (after .transmissionStart fullOfReplies).link.queue = fullOfReplies.link.queue ∧
    (OutParcel.reply (statusReply .command 0 0 .ok)).isNotice = false := by decide +kernel

theorem witness_NoticeCompletes :
    (after .transmissionStart (noticed (.panel .stray .p0) 1)).link.sending.isSome = true ∧
    (after .transmissionStart (noticed (.panel .stray .p0) 1)).link.queue =
      .notice ⟨.panel .stray .p0, 1, none, 0, false⟩ :: [] := by decide +kernel

theorem witness_ClearNotice : Taken (.clearNotice 7 9 0x02) up ∧ Taken (.clearNotice (panelByte .p1) 9 0x1D) up ∧
    (Taken (.clearNotice 0 9 0x05) up ∧ ¬ (0x01 ≤ 5 ∧ 5 ≤ 0x04) ∧ ¬ (0x10 ≤ 5 ∧ 5 ≤ 0x22)) ∧
    (Taken (.clearNotice 2 9 0x22) up ∧ 1 < (2 : Byte).toNat) ∧
    (Taken (.clearNotice 1 9 0x10) up ∧ (1 : Byte).toNat ≤ 1) ∧ Taken (.clearNotice 9 9 0x04) up := by
  unfold Taken
  decide +kernel

/-- A STRAY of panel 0 is PENDING with its source at priority 0. -/
def silenced : State :=
  withFlag (.panel .stray .p0) .pending 1 (modNotices (fun u => u.setPrio (.panel .stray) 0) up)

theorem witness_PriorityWrite :
    (Taken (.writeEntry 9 9 0x06#8 (BitVec.ofNat 16 (Source.panel .stray).code) (wordBytes 3)) silenced ∧
      silenced.notices.prio (.panel .stray) = 0 ∧ silenced.notices.able = true ∧
      (silenced.flag (.panel .stray .p0)).state = .pending) ∧
    Taken (.writeEntry 9 9 0x06#8 (BitVec.ofNat 16 (Source.part .linkUp).code) (wordBytes 0)) up := by
  unfold Taken
  decide +kernel

theorem witness_FrameOpen :
    (arrives (.frameOpen .p0 6) (ticketed driving) = true ∧ TicketsOk ((ticketed driving).ingress .p0) ∧
      ((ticketed driving).seq .p0).run ≠ .disabled ∧
      (∀ r, referenceFrame ((ticketed driving).ingress .p0) = some r → ahead 6 r = true) ∧
      ((ticketed driving).ingress .p0).waiting.length < 2 ∧
      ∃ k ∈ ((ticketed driving).ingress .p0).tickets, k.state = .opened) ∧
    (arrives (.frameOpen .p0 6) stretching = true ∧ TicketsOk (stretching.ingress .p0) ∧
      (∀ r, referenceFrame (stretching.ingress .p0) = some r → ahead 6 r = true) ∧
      (stretching.seq .p0).run = .stretch ∧ (stretching.seq .p0).outcome = .none ∧
      ∀ k ∈ (stretching.ingress .p0).tickets, k.state ≠ .opened) :=
  ⟨⟨by decide +kernel, order_ticketed.ingress.tickets .p0, by decide +kernel, ofAll (by decide +kernel), by decide +kernel⟩,
    by decide +kernel, order_stretching.ingress.tickets .p0, ofAll (by decide +kernel), by decide +kernel⟩

theorem witness_FrameOpen_refused :
    (arrives (.frameOpen .p0 6) up = true ∧ TicketsOk (up.ingress .p0) ∧ (up.seq .p0).run = .disabled) ∧
    (arrives (.frameOpen .p0 5) (ticketed driving) = true ∧ TicketsOk ((ticketed driving).ingress .p0) ∧
      referenceFrame ((ticketed driving).ingress .p0) = some 5 ∧ ahead 5 5 = false) ∧
    (arrives (.frameOpen .p0 8) (twoWaiting .closed driving) = true ∧
      TicketsOk ((twoWaiting .closed driving).ingress .p0) ∧
      (∀ r, referenceFrame ((twoWaiting .closed driving).ingress .p0) = some r → ahead 8 r = true) ∧
      ((twoWaiting .closed driving).ingress .p0).waiting.length = 2 ∧
      ∀ k ∈ ((twoWaiting .closed driving).ingress .p0).tickets, k.state = .closed) ∧
    (arrives (.frameOpen .p0 8) (twoWaiting .opened driving) = true ∧
      TicketsOk ((twoWaiting .opened driving).ingress .p0) ∧
      (∀ r, referenceFrame ((twoWaiting .opened driving).ingress .p0) = some r → ahead 8 r = true) ∧
      ∃ k ∈ ((twoWaiting .opened driving).ingress .p0).tickets, k.state = .opened) :=
  ⟨⟨by decide +kernel, order_up.ingress.tickets .p0, by decide +kernel⟩,
    ⟨by decide +kernel, order_ticketed.ingress.tickets .p0, by decide +kernel⟩,
    ⟨by decide +kernel, ticketsOk_of_check (by decide +kernel), ofAll (by decide +kernel), by decide +kernel⟩,
    by decide +kernel, ticketsOk_of_check (by decide +kernel), ofAll (by decide +kernel), by decide +kernel⟩

theorem witness_FrameClose :
    (arrives (.frameClose .p0 5) (ticketed driving) = true ∧ TicketsOk ((ticketed driving).ingress .p0) ∧
      ∃ k ∈ ((ticketed driving).ingress .p0).tickets, k.state = .opened ∧ k.frame = 5) ∧
    arrives (.frameClose .p0 6) (ticketed driving) = true ∧
      ∀ k ∈ ((ticketed driving).ingress .p0).tickets, k.state = .opened → k.frame ≠ 6 :=
  ⟨⟨by decide +kernel, order_ticketed.ingress.tickets .p0, by decide +kernel⟩, by decide +kernel⟩

/-- A black line of the reset width. -/
def black : List Pixel := List.replicate 64 Pixel.black

theorem witness_LineAccepted : arrives (.line .p0 5 3 black) (ticketed driving) = true ∧
    TicketsOk ((ticketed driving).ingress .p0) ∧ ((ticketed driving).seq .p0).run ≠ .disabled ∧
    black.length = ((ticketed driving).pd .p0).width ∧ (3 : Word).toNat < ((ticketed driving).pd .p0).activeLines ∧
    OpenFor ((ticketed driving).ingress .p0) 5 ∧
    ¬ LineLate ((ticketed driving).seq .p0) ((ticketed driving).ingress .p0) 5 3 ∧
    LineInOrder ((ticketed driving).ingress .p0) 5 3 ∧
    ((ticketed driving).ingress .p0).queue.length ≠ ((ticketed driving).pd .p0).quota := by
  refine ⟨by decide +kernel, order_ticketed.ingress.tickets .p0, by decide +kernel, by decide +kernel, by decide +kernel,
    ?_, ?_, ofSome (by decide +kernel), by decide +kernel⟩
  · unfold OpenFor; decide +kernel
  · unfold LineLate; decide +kernel

/-- Panel 0's queue is at its quota of 4. -/
def fullQueue : State :=
  modIngress .p0 (fun g => { g with queue := [slot 5 1, slot 5 2, slot 5 3, slot 5 4] })
    { ticketed driving with freeSlots := 92 }

/-- A disabled panel; too few pixels, and a line number that is too large; a frame that is not open; a late line; a line
out of order; a full queue. -/
theorem witness_LineRefused :
    (arrives (.line .p0 5 3 black) up = true ∧ TicketsOk (up.ingress .p0) ∧ (up.seq .p0).run = .disabled) ∧
    TicketsOk ((ticketed driving).ingress .p0) ∧
    (arrives (.line .p0 5 3 []) (ticketed driving) = true ∧ ([] : List Pixel).length ≠ ((ticketed driving).pd .p0).width) ∧
    (arrives (.line .p0 5 64 black) (ticketed driving) = true ∧
      ¬ (64 : Word).toNat < ((ticketed driving).pd .p0).activeLines) ∧
    (arrives (.line .p0 6 3 black) (ticketed driving) = true ∧ ¬ OpenFor ((ticketed driving).ingress .p0) 6) ∧
    (arrives (.line .p0 5 0 black) (ticketed driving) = true ∧ OpenFor ((ticketed driving).ingress .p0) 5 ∧
      LineLate ((ticketed driving).seq .p0) ((ticketed driving).ingress .p0) 5 0) ∧
    (arrives (.line .p0 5 2 black) (ticketed driving) = true ∧
      ¬ LineLate ((ticketed driving).seq .p0) ((ticketed driving).ingress .p0) 5 2 ∧
      ¬ LineInOrder ((ticketed driving).ingress .p0) 5 2) ∧
    (arrives (.line .p0 5 5 black) fullQueue = true ∧ TicketsOk (fullQueue.ingress .p0) ∧
      OpenFor (fullQueue.ingress .p0) 5 ∧ LineInOrder (fullQueue.ingress .p0) 5 5 ∧
      (fullQueue.ingress .p0).queue.length = (fullQueue.pd .p0).quota) := by
  refine ⟨⟨by decide +kernel, order_up.ingress.tickets .p0, by decide +kernel⟩, order_ticketed.ingress.tickets .p0,
    by decide +kernel, by decide +kernel, ⟨by decide +kernel, ?_⟩, ⟨by decide +kernel, ?_, ?_⟩,
    ⟨by decide +kernel, ?_, fun h => ?_⟩, by decide +kernel, ticketsOk_of_check (by decide +kernel), ?_,
    ofSome (by decide +kernel), by decide +kernel⟩
  · unfold OpenFor; decide +kernel
  · unfold OpenFor; decide +kernel
  · unfold LineLate; decide +kernel
  · unfold LineLate; decide +kernel
  · exact absurd (h (slot 5 2) (by decide +kernel)) (by decide +kernel)
  · unfold OpenFor; decide +kernel

theorem witness_Resolution : ((driving).ingress .p0).driving = none ∧ (driving.ingress .p0).scan = none ∧
    (((ticketed driving).ingress .p0).driving = none ∧ ((ticketed driving).ingress .p0).scan = some ⟨5, .opened, 1⟩ ∧
      ((ticketed driving).ingress .p0).queue = [] ++ slot 5 2 :: [] ∧ (slot 5 2).lineNo = 2 ∧ (slot 5 2).lineNo ≠ 1) ∧
    ((ticketed driving).sup .p0).mode = .live ∧
    ((modSup .p0 (fun u => { u with mode := .safe }) (ticketed driving)).sup .p0).mode = .safe ∧
    ((slot 5 2).frame = 5 ∧ (slot 5 2).lineNo < 3 ∧ ((ticketed driving).ingress .p0).queue = [slot 5 2] ++ []) := by
  decide +kernel

theorem witness_WriteIsStaged : Taken (.writeEntry (panelByte .p0) 9 0x05 7 [0, 0xC8]) up ∧
    TableId.ofCode 0x05 = some .hopTable ∧ TableId.hopTable.isPanelTable = true ∧ (7 : Word).toNat < TableId.hopTable.size ∧
    decodeEntry .hopTable (bytesWords [0, 0xC8]) = some (.hop (some 200)) ∧ (up.mgmt .p0).commitPending = false := by
  unfold Taken
  decide +kernel

/-- Panel 0 has a commit pending. -/
def pending : State := modMgmt .p0 (fun m => { m with commitPending := true }) driving

/-- Panel 0's supervision lock is set. -/
def supervised : State := modMgmt .p0 (fun m => { m with supLock := true }) driving

/-- The words of the reset descriptor with another tolerance. -/
def otherTolerance : List Byte := wordsBytes (encodeDescriptor { PanelDescriptor.reset .p0 with tolerance := 1 })

theorem witness_WriteRefused : Taken (.writeEntry 0 9 0x07 0 []) up ∧ Taken (.writeEntry 0 9 0x00 0 []) up ∧
    (Taken (.writeEntry 0 9 0x06 0x0F [0, 0]) up ∧ Source.ofCode (0x0F : Word).toNat = none) ∧
    (Taken (.writeEntry 0 9 0x06 0x22 [0, 4]) up ∧ Source.ofCode (0x22 : Word).toNat ≠ none ∧
      3 < (wordAt (bytesWords [0, 4]) 0).toNat) ∧
    (Taken (.writeEntry 2 9 0x05 0 [0, 0]) up ∧ 1 < (2 : Byte).toNat) ∧
    (Taken (.writeEntry 0 9 0x05 8 [0, 0]) up ∧ TableId.hopTable.size ≤ (8 : Word).toNat) ∧
    (Taken (.writeEntry (panelByte .p0) 9 0x05 7 [0, 51]) up ∧ decodeEntry .hopTable (bytesWords [0, 51]) = none) ∧
    (Taken (.writeEntry (panelByte .p0) 9 0x05 7 [0, 0]) pending ∧
      decodeEntry .hopTable (bytesWords [0, 0]) = some (.hop none) ∧ (pending.mgmt .p0).commitPending = true) ∧
    (Taken (.writeEntry (panelByte .p0) 9 0x03 0 (wordsBytes (encodeRegion Region.reset))) locked ∧
      decodeEntry .regionTable (bytesWords (wordsBytes (encodeRegion Region.reset))) = some (.region Region.reset) ∧
      (locked.tables .p0).regions[0]?.map Region.locked = some true) ∧
    (Taken (.writeEntry (panelByte .p0) 9 0x01 0 otherTolerance) supervised ∧
      decodeEntry .panelDescriptor (bytesWords otherTolerance) =
        some (.descriptor { PanelDescriptor.reset .p0 with tolerance := 1 }) ∧
      (supervised.mgmt .p0).supLock = true ∧ (supervised.pd .p0).tolerance = 0) := by
  unfold Taken
  decide +kernel

/-- Staged, active and active region entries, and the last index of each other table. -/
theorem witness_ReadReturnsTheEntry :
    (Taken (.readEntry (panelByte .p0) 9 0x05 1 7) up ∧ (up.mgmt .p0).staged.entryWords .hopTable 7 = some [0]) ∧
    (Taken (.readEntry (panelByte .p0) 9 0x04 0 63) up ∧ (up.tables .p0).entryWords .groupTable 63 = some [0, 0, 0, 1]) ∧
    (Taken (.readEntry (panelByte .p0) 9 0x03 2 15) up ∧ ((up.tables .p0).entryWords .regionTable 15).isSome = true ∧
      (2 : Byte).getLsbD 0 = false) ∧
    Taken (.readEntry (panelByte .p1) 9 0x07 0 0) up ∧ Taken (.readEntry 9 9 0x0A 0 0) up ∧
    (Taken (.readEntry (panelByte .p0) 9 0x09 0 59) (windowIn .hold 0 none) ∧
      (59 : Word).toNat = 2 * ((windowIn .hold 0 none).pd .p0).columns + 19 ∧
      19 < ((windowIn .hold 0 none).pd .p0).columns ∧ 2 < ((windowIn .hold 0 none).pd .p0).rows) ∧
    (Taken (.readEntry 9 9 0x08 0 0x04) up ∧ (0x04 : Word).toNat = (Source.part .mgmtDrop).code) ∧
    (Taken (.readEntry 1 9 0x08 0 0x10) up ∧ (0x10 : Word).toNat = (Source.panel .prestart).code) ∧
    (Taken (.readEntry 9 9 0x06 0 0x22) up ∧ (0x22 : Word).toNat = (Source.panel .stretchExpired).code) := by
  unfold Taken
  decide +kernel

/-- No table; a panel that is not 0 or 1; the first index beyond each table. -/
theorem witness_ReadReturnsTheEntry_refused : Taken (.readEntry 0 9 0x0B 0 0) up ∧ 10 < (0x0B : Byte).toNat ∧
    (Taken (.readEntry 2 9 0x01 0 0) up ∧ 1 < (2 : Byte).toNat) ∧
    (Taken (.readEntry 0 9 0x01 0 1) up ∧ TableId.panelDescriptor.size ≤ (1 : Word).toNat) ∧
    Taken (.readEntry 0 9 0x07 0 1) up ∧ Taken (.readEntry 2 9 0x0A 0 1) up ∧
    (Taken (.readEntry (panelByte .p0) 9 0x09 0 1) up ∧ (up.pd .p0).columns * (up.pd .p0).rows ≤ (1 : Word).toNat) ∧
    (Taken (.readEntry 0 9 0x06 0 0x23) up ∧ Source.ofCode (0x23 : Word).toNat = none) ∧
    (Taken (.readEntry 2 9 0x08 0 0x22) up ∧ (0x22 : Word).toNat = (Source.panel .stretchExpired).code) := by
  unfold Taken
  decide +kernel

theorem witness_CommandOperandsAreChecked : (1 < (2 : Byte).toNat ∧ Taken (.resetBaseline 2 9) up) ∧
    Taken (.unknownCommand 2 9 0x09) up := by
  unfold Taken
  decide +kernel

/-- What the checks of a COMMIT read is in order: the entries are in range, the staged set is valid, and it goes with the other
panel's. -/
def Committable (s : State) : Prop :=
  Taken (.commit (panelByte .p0) 9) s ∧ RangesOk s ∧ (s.mgmt .p0).commitPending = false ∧ SelfValid (s.mgmt .p0).staged ∧
  ∀ u ∈ (s.mgmt Panel.p0.other).inForceOrPending, Together (s.mgmt .p0).staged u

theorem committable_of_check {s : State} (ht : Taken (.commit (panelByte .p0) 9) s) (hr : rangesCheck s = true)
    (hp : (s.mgmt .p0).commitPending = false) (hv : selfValidCheck (s.mgmt .p0).staged = true)
    (hu : (s.mgmt .p1).inForceOrPending.all (togetherCheck (s.mgmt .p0).staged) = true) : Committable s :=
  ⟨ht, rangesOk_of_check hr, hp, selfValid_of_check hv, fun u h => together_of_check (List.all_eq_true.1 hu u h)⟩

theorem witness_CommitTaken : (Committable up ∧ (up.seq .p0).run = .disabled) ∧
    (Committable syncing ∧ (syncing.seq .p0).run = .syncing) ∧ (Committable driving ∧ (driving.seq .p0).run = .running) ∧
    (Committable stretching ∧ (stretching.seq .p0).run = .stretch) := by
  refine ⟨⟨committable_of_check ?_ ?_ ?_ ?_ ?_, ?_⟩, ⟨committable_of_check ?_ ?_ ?_ ?_ ?_, ?_⟩,
    ⟨committable_of_check ?_ ?_ ?_ ?_ ?_, ?_⟩, committable_of_check ?_ ?_ ?_ ?_ ?_, ?_⟩ <;>
    first | decide +kernel | (unfold Taken; decide +kernel)

/-- Panel 0, on a link that is UP, has other tables staged. -/
def offering (t : Tables) : State := modMgmt .p0 (fun m => { m with staged := t }) up

/-- The reset tables of panel 0 with another descriptor, or with other first regions. -/
def withPd (f : PanelDescriptor → PanelDescriptor) : Tables := { Tables.reset .p0 with pd := f (Tables.reset .p0).pd }
def withRegions (a b : Region) : Tables :=
  { Tables.reset .p0 with regions := ((Vector.replicate 16 Region.reset).set 0 a).set 1 b }

/-- A staged set that fails each check of R142 in turn, and passes those before it: a release threshold above the touch
threshold, a line more than the timeline drives, a second region one pixel too wide, two regions over one block, a group on
another's cell, a quota of 88 beside one of 5, and no first frequency. -/
def failing : List Tables :=
  [withPd fun d => { d with releaseThreshold := d.touchThreshold + 1 }, withPd fun d => { d with activeLines := 65 },
   withRegions Region.reset { square .host true with x1 := 64 }, withRegions (square .host true) (square .retained false),
   { Tables.reset .p0 with groups := groupsReset.set 1 ⟨true, 0, 0, 1⟩ }, withPd fun d => { d with quota := 88 },
   { Tables.reset .p0 with hops := hopsReset.set 0 none }]

/-- Panel 1's quota is 5, and `t` is staged on panel 0. -/
def beside (t : Tables) : State :=
  modMgmt .p1 (fun m => { m with active := { m.active with pd := { m.active.pd with quota := 5 } } }) (offering t)

/-- Each failing set is in range, on a part that takes the COMMIT, and validation names the check it fails. -/
theorem witness_CommitRefused : (Taken (.commit (panelByte .p0) 9) pending ∧ RangesOk pending ∧
      (pending.mgmt .p0).commitPending = true) ∧
    (∀ t ∈ failing, Taken (.commit (panelByte .p0) 9) (beside t) ∧ RangesOk (beside t) ∧
      ((beside t).mgmt .p0).commitPending = false) ∧
    (failing.map fun t => validate t ((beside t).mgmt .p1)) =
      [some ⟨.badValue, .panelDescriptor, some 0⟩, some ⟨.badTimeline, .frameTimeline, none⟩,
       some ⟨.badCombo, .regionTable, some 1⟩, some ⟨.overlap, .regionTable, some 0⟩,
       some ⟨.overlap, .groupTable, some 0⟩, some ⟨.noSpace, .panelDescriptor, none⟩,
       some ⟨.badValue, .hopTable, none⟩] := by
  refine ⟨⟨by unfold Taken; decide +kernel, rangesOk_of_check (by decide +kernel), by decide +kernel⟩, fun t ht => ?_,
    by decide +kernel⟩
  have h : ∀ t ∈ failing, (arrives (.commit (panelByte .p0) 9) (beside t) = true ∧ (beside t).link.replyCount < 4) ∧
      rangesCheck (beside t) = true ∧ ((beside t).mgmt .p0).commitPending = false := by decide +kernel
  exact ⟨(h t ht).1, rangesOk_of_check (h t ht).2.1, (h t ht).2.2⟩

/-- The conditions of CommitRefused on one entry. -/
def Breaks3 (t : Tables) (i : Nat) : Prop := ∃ r, t.regions[i]? = some r ∧ r.valid = true ∧ ¬ RegionFits t.pd r
def Breaks4 (t : Tables) (others : List Tables) (i : Nat) : Prop := ∃ r k, t.regions[i]? = some r ∧ r.UsesBlock k ∧
  ((∃ j r', j ≠ i ∧ t.regions[j]? = some r' ∧ r'.UsesBlock k) ∨ ∃ u ∈ others, ∃ r' ∈ u.regions.toList, r'.UsesBlock k)
def Breaks5 (t : Tables) (i : Nat) : Prop := ∃ g, t.groupList[i]? = some g ∧
  (¬ GroupFits t.pd g ∨ ∃ j g', j ≠ i ∧ t.groupList[j]? = some g' ∧ ∃ c ∈ g.cells, c ∈ g'.cells)

theorem no_breaks3 {t : Tables} (h : ∀ r ∈ t.regions.toList, r.firstBlock ≤ 63 ∧ regionBad t.pd r = false) (i : Nat) :
    ¬ Breaks3 t i := by
  rintro ⟨r, hr, hv, hn⟩
  have hm := h r (by simpa using Vector.mem_of_getElem? hr)
  exact hn ((regionBad_iff _ _ hm.1).1 hm.2 hv)

theorem no_breaks4 {t : Tables} (others : List Tables) (h : ∀ r ∈ t.regions.toList, r.valid = false) (i : Nat) :
    ¬ Breaks4 t others i := by
  rintro ⟨r, k, hr, hu, -⟩
  have := h r (by simpa using Vector.mem_of_getElem? hr)
  exact absurd hu.1 (by simp [this])

theorem no_breaks5 {t : Tables} (h : ∀ i < 64, groupBad t i = false) (i : Nat) : ¬ Breaks5 t i := by
  have h := groups_of_check h
  rintro ⟨g, hg, hn | ⟨j, g', hj, hg', c, hc, hc'⟩⟩
  · exact hn (h.1 g (List.mem_of_getElem? hg))
  · exact h.2 i j g g' (Ne.symm hj) hg hg' c hc hc'

/-- The failing sets meet the premises of the clauses of CommitRefused one by one, in the rules' words. -/
theorem witness_CommitRefused_clauses :
    ¬ DescriptorFits failing[0].pd ∧ (DescriptorFits failing[1].pd ∧ ¬ TimelineFits failing[1]) ∧
    (DescriptorFits failing[2].pd ∧ TimelineFits failing[2] ∧ Breaks3 failing[2] 1 ∧ ∀ j < 1, ¬ Breaks3 failing[2] j) ∧
    (DescriptorFits failing[3].pd ∧ TimelineFits failing[3] ∧ (∀ i, ¬ Breaks3 failing[3] i) ∧
      ∀ others, Breaks4 failing[3] others 0) ∧
    (DescriptorFits failing[4].pd ∧ TimelineFits failing[4] ∧ (∀ i, ¬ Breaks3 failing[4] i) ∧
      (∀ others i, ¬ Breaks4 failing[4] others i) ∧ Breaks5 failing[4] 0) ∧
    (DescriptorFits failing[5].pd ∧ TimelineFits failing[5] ∧ (∀ i, ¬ Breaks3 failing[5] i) ∧
      (∀ others i, ¬ Breaks4 failing[5] others i) ∧ (∀ i, ¬ Breaks5 failing[5] i) ∧
      ¬ ∀ u ∈ ((beside failing[5]).mgmt .p1).inForceOrPending, failing[5].pd.quota + u.pd.quota ≤ 92) ∧
    (DescriptorFits failing[6].pd ∧ TimelineFits failing[6] ∧ (∀ i, ¬ Breaks3 failing[6] i) ∧
      (∀ others i, ¬ Breaks4 failing[6] others i) ∧ (∀ i, ¬ Breaks5 failing[6] i) ∧
      (∀ u ∈ ((beside failing[6]).mgmt .p1).inForceOrPending, failing[6].pd.quota + u.pd.quota ≤ 92) ∧
      failing[6].hops[0] = none) := by
  have fits : ∀ t ∈ failing.drop 1, DescriptorFits t.pd := fun t ht =>
    (descriptorBad_iff _).1 ((by decide +kernel : ∀ t ∈ failing.drop 1, descriptorBad t.pd = false) t ht)
  have timed : ∀ t ∈ failing.drop 2, TimelineFits t := fun t ht =>
    (timelineBad_iff _).1 ((by decide +kernel : ∀ t ∈ failing.drop 2, timelineBad t = false) t ht)
  have regions : ∀ t ∈ failing.drop 3, ∀ i, ¬ Breaks3 t i := fun t ht => no_breaks3
    ((by decide +kernel : ∀ t ∈ failing.drop 3, ∀ r ∈ t.regions.toList, r.firstBlock ≤ 63 ∧ regionBad t.pd r = false) t ht)
  have blocks : ∀ t ∈ failing.drop 4, ∀ others i, ¬ Breaks4 t others i := fun t ht others => no_breaks4 others
    ((by decide +kernel : ∀ t ∈ failing.drop 4, ∀ r ∈ t.regions.toList, r.valid = false) t ht)
  have groups : ∀ t ∈ failing.drop 5, ∀ i, ¬ Breaks5 t i := fun t ht => no_breaks5
    ((by decide +kernel : ∀ t ∈ failing.drop 5, ∀ i < 64, groupBad t i = false) t ht)
  refine ⟨fun h => absurd h.thresholds (by decide +kernel),
    ⟨fits _ (by simp [failing]), fun h => absurd h.lines (by decide +kernel)⟩,
    ⟨fits _ (by simp [failing]), timed _ (by simp [failing]),
      ⟨{ square .host true with x1 := 64 }, by decide +kernel, rfl, fun h => absurd h.inside (by decide +kernel)⟩,
      fun j hj => ?_⟩,
    ⟨fits _ (by simp [failing]), timed _ (by simp [failing]), regions _ (by simp [failing]), fun others =>
      ⟨square .host true, 0, by decide +kernel, ⟨rfl, by decide, .inl (by decide)⟩, .inl
        ⟨1, square .retained false, by decide, by decide +kernel, rfl, by decide, .inr (by decide)⟩⟩⟩,
    ⟨fits _ (by simp [failing]), timed _ (by simp [failing]), regions _ (by simp [failing]), blocks _ (by simp [failing]),
      ⟨⟨true, 0, 0, 1⟩, by decide +kernel, .inr ⟨1, ⟨true, 0, 0, 1⟩, by decide, by decide +kernel, (0, 0), by decide⟩⟩⟩,
    ⟨fits _ (by simp [failing]), timed _ (by simp [failing]), regions _ (by simp [failing]), blocks _ (by simp [failing]),
      groups _ (by simp [failing]), by decide +kernel⟩,
    fits _ (by simp [failing]), timed _ (by simp [failing]), regions _ (by simp [failing]), blocks _ (by simp [failing]),
    groups _ (by simp [failing]), by decide +kernel, by decide +kernel⟩
  obtain rfl : j = 0 := by omega
  rintro ⟨r, hr, hv, -⟩
  exact absurd hv (by rw [← Option.some.inj ((by decide +kernel : failing[2].regions[0]? = some Region.reset).symm.trans hr)]; decide)

/-- Panel 0, driving with a ticket, has other tables staged. -/
def staging (t : Tables) : State := modMgmt .p0 (fun m => { m with staged := t }) (ticketed driving)

/-- Tables that differ from the reset tables in the width alone. -/
def wide : Tables := withPd fun d => { d with width := 65 }

theorem witness_CommitActsOnTheIngressState : ((staging wide).flag (.panel .overrun .p0)).count ≤ 255 ∧
    ((staging wide).mgmt .p0).active.pd.width ≠ ((staging wide).mgmt .p0).staged.pd.width ∧
    ((staging scanning).mgmt .p0).active.pd.width = ((staging scanning).mgmt .p0).staged.pd.width ∧
    ((staging scanning).mgmt .p0).active.pd.activeLines = ((staging scanning).mgmt .p0).staged.pd.activeLines := by
  decide +kernel

theorem witness_CommitActsOnTheTouchProcessor : Sparse.wf Cell.reset ((staging scanning).touch .p0).cells = true ∧
    ((staging scanning).mgmt .p0).active.pd.columns ≠ ((staging scanning).mgmt .p0).staged.pd.columns ∧
    ((staging scanning).mgmt .p0).active.hops = ((staging scanning).mgmt .p0).staged.hops ∧
    ((staging wide).mgmt .p0).active.groupList = ((staging wide).mgmt .p0).staged.groupList ∧
    (let t := { Tables.reset .p0 with hops := hopsReset.set 1 (some 200) }
     ((staging t).mgmt .p0).active.hops ≠ ((staging t).mgmt .p0).staged.hops) := by decide +kernel

/-- A region of panel 0 shows its second block, in which a byte is written, and another entry is staged for it. -/
def recommitting (new : Region) : State :=
  modMgmt .p0 (fun m => { m with staged := { m.staged with regions := m.staged.regions.set 0 new } })
    (modComposer .p0 (fun c => { c with regions := c.regions.set 0 ⟨.valid, .second, [], none⟩ })
      { withRegion (square .retained true) driving with store := [(blockBytes, 7)] })

/-- A region that becomes fixed, one that moves to another block, and one that stays. -/
theorem witness_CommitActsOnTheRegions :
    (∀ new ∈ [square .retained false, { square .retained true with firstBlock := 9 }, square .retained true],
      StoresOk (recommitting new) ∧ MgmtOk (recommitting new) ∧ ImagesOk (recommitting new) ∧
      ((recommitting new).mgmt .p0).active.regions[0]? = some (square .retained true) ∧
      ((recommitting new).mgmt .p0).staged.regions[0]? = some new ∧
      ((recommitting new).composer .p0).regions[0]? = some ⟨.valid, .second, [], none⟩) ∧
    ((square .retained true).capture = true ∧ (square .retained false).mode = .fixed ∧
      (square .retained true).mode ≠ .window ∧ 0 < (square .retained false).imageBlocks * blockBytes ∧
      frontBlock (square .retained true) .second * blockBytes + 0 = blockBytes) := by
  refine ⟨fun new hn => ?_, by decide⟩
  have h : ∀ new ∈ [square .retained false, { square .retained true with firstBlock := 9 }, square .retained true],
      (storesCheck (recommitting new) = true ∧ mgmtCheck (recommitting new) = true ∧ imagesCheck (recommitting new) = true) ∧
      ((recommitting new).mgmt .p0).active.regions[0]? = some (square .retained true) ∧
      ((recommitting new).mgmt .p0).staged.regions[0]? = some new ∧
      ((recommitting new).composer .p0).regions[0]? = some ⟨.valid, .second, [], none⟩ := by decide +kernel
  obtain ⟨⟨h1, h2, h3⟩, h4⟩ := h new hn
  exact ⟨storesOk_of_check h1, mgmtOk_of_check h2, imagesOk_of_check h3, h4⟩

/-- The copy of R64: the byte of the second block stands in the first one too. -/
theorem test_fixedCopy : (applyCommit .p0 (recommitting (square .retained false))).store = [(0, 7), (blockBytes, 7)] := by
  decide +kernel

theorem witness_StartPanel : Taken (.startPanel (panelByte .p0) 9) driving ∧ (driving.seq .p0).run ≠ .disabled ∧
    Taken (.startPanel (panelByte .p0) 9) up ∧ (up.mgmt .p0).committed = false ∧
    Taken (.startPanel (panelByte .p0) 9) committed ∧ (committed.seq .p0).run = .disabled ∧
    (committed.mgmt .p0).committed = true := by
  unfold Taken
  decide +kernel

theorem witness_StopPanel : InOrder supervised ∧ InOrder pending ∧ Taken (.stopPanel (panelByte .p0) 9) supervised ∧
    (supervised.mgmt .p0).supLock = true ∧ Taken (.stopPanel (panelByte .p0) 9) pending ∧
    (pending.mgmt .p0).supLock = false := by
  refine ⟨inOrder_of_check (by decide +kernel), inOrder_of_check (by decide +kernel), ?_⟩
  unfold Taken
  decide +kernel

theorem witness_RestartPanel : InOrder up ∧ InOrder pending ∧ InOrder stretching ∧ InOrder syncing ∧
    Taken (.restartPanel (panelByte .p0) 9) syncing ∧ (syncing.seq .p0).run = .syncing ∧
    Taken (.restartPanel (panelByte .p0) 9) up ∧ (up.seq .p0).run = .disabled ∧
    Taken (.restartPanel (panelByte .p0) 9) pending ∧ (pending.seq .p0).run = .running ∧
    (pending.seq .p0).frameEnd = false ∧
    Taken (.restartPanel (panelByte .p0) 9) stretching ∧ (stretching.seq .p0).run = .stretch := by
  refine ⟨order_up, inOrder_of_check (by decide +kernel), order_stretching, order_syncing, ?_⟩
  unfold Taken
  decide +kernel

theorem witness_LockSupervision : Taken (.lockSupervision (panelByte .p0) 9) pending ∧
    (pending.mgmt .p0).commitPending = true ∧ Taken (.lockSupervision (panelByte .p0) 9) driving ∧
    (driving.mgmt .p0).commitPending = false := by
  unfold Taken
  decide +kernel

theorem witness_ResetBaseline : Taken (.resetBaseline (panelByte .p0) 9) driving ∧
    Taken (.resetBaseline (panelByte .p0) 9) pending ∧ Taken (.resetBaseline (panelByte .p0) 9) supervised := by
  unfold Taken
  decide +kernel

/-- A part with a supervision lock, one with a locked region, and one whose NOTICE is on the lanes. -/
theorem witness_ResetPart : Taken (.resetPart 7 9) supervised ∧ LinkOk supervised ∧ (supervised.mgmt .p0).supLock = true ∧
    Taken (.resetPart 7 9) locked ∧ LinkOk locked ∧ (∃ r ∈ (locked.tables .p0).regions.toList, r.locked = true) ∧
    LinkOk (after .transmissionStart (noticed (.panel .stray .p0) 1)) ∧
    Taken (.resetPart 7 9) (after .transmissionStart (noticed (.panel .stray .p0) 1)) ∧
    ((State.reset.mgmt .p0).supLock = false ∧ (State.reset.mgmt .p1).supLock = false ∧
      (∀ r ∈ (State.reset.tables .p0).regions.toList, r.locked = false) ∧
      ∀ r ∈ (State.reset.tables .p1).regions.toList, r.locked = false) := by
  refine ⟨?_, linkOk_of_check (by decide +kernel), by decide +kernel, ?_, linkOk_of_check (by decide +kernel),
    by decide +kernel, linkOk_of_check (by decide +kernel), ?_, by decide +kernel⟩ <;> (unfold Taken; decide +kernel)

theorem witness_AcquireEdge : (committed.resetPin = false ∧ (committed.seq .p0).locked = false ∧
      (committed.seq .p0).run = .disabled) ∧
    (syncing.resetPin = false ∧ (syncing.seq .p0).locked = false ∧ (syncing.seq .p0).run = .syncing ∧
      (syncing.seq .p0).cutShort = false) ∧ MgmtOk syncing ∧
    InOrder restarted ∧ restarted.resetPin = false ∧ (restarted.seq .p0).locked = false ∧
    (restarted.seq .p0).cutShort = true ∧ (restarted.seq .p0).run = .syncing :=
  ⟨by decide +kernel, by decide +kernel, order_syncing.mgmt, order_restarted, by decide +kernel⟩

theorem witness_LossEdge : ((after (.acquireEdge .p0) committed).resetPin = false ∧
      ((after (.acquireEdge .p0) committed).seq .p0).locked = true ∧
      ((after (.acquireEdge .p0) committed).seq .p0).run = .disabled) ∧
    (driving.resetPin = false ∧ (driving.seq .p0).locked = true ∧ (driving.seq .p0).run = .running ∧
      (driving.seq .p0).frameEnd = false) ∧ SenseOk driving ∧
    ((stretching.seq .p0).locked = true ∧ (stretching.seq .p0).run = .stretch) ∧ SenseOk stretching :=
  ⟨by decide +kernel, by decide +kernel, order_driving.sense, by decide +kernel, order_stretching.sense⟩

theorem witness_DriveSlotEnd : (driving.seq .p0).run = .running ∧ (driving.seq .p0).segment = some 0 ∧
    (driving.tables .p0).segments = [⟨.drive, 64, 0, 0⟩, ⟨.blank, 16, 0, 0⟩] ∧ (driving.seq .p0).progress + 1 < 64 ∧
    (lastLine.seq .p0).run = .running ∧ (lastLine.seq .p0).segment = some 0 ∧ 64 ≤ (lastLine.seq .p0).progress + 1 ∧
    (lastLine.tables .p0).segments = [⟨.drive, 64, 0, 0⟩, ⟨.blank, 16, 0, 0⟩] := by decide +kernel

/-- Panel 0 is in the last line period of its last segment, with adaptive refresh. -/
def endingAdaptive : State :=
  modSeq .p0 (fun q => { q with progress := 15, frameEnd := true, linesLeft := 1 })
    (runningIn 1 (withTables adaptive up))

/-- Two blank segments follow the drive segment, and the panel is in the first of them. -/
def twoBlanks : State :=
  runningIn 1 (withTables { Tables.reset .p0 with timeline := timelineReset.set 2 ⟨.blank, 1, 0, 0⟩ } up)

theorem witness_BlankLineEnd :
    ((lastBlank.seq .p0).run = .running ∧ (lastBlank.seq .p0).segment = some 1 ∧
      (lastBlank.tables .p0).segments[1]? = some ⟨.blank, 16, 0, 0⟩ ∧ 16 ≤ (lastBlank.seq .p0).progress + 1 ∧
      (lastBlank.tables .p0).segments[2]? = none ∧ (lastBlank.pd .p0).refresh = .fixed) ∧ MgmtOk lastBlank ∧
    ((twoBlanks.seq .p0).run = .running ∧ (twoBlanks.tables .p0).segments[1]? = some ⟨.blank, 16, 0, 0⟩ ∧
      (twoBlanks.seq .p0).progress + 1 < 16 ∧ 16 ≤ 15 + 1 ∧
      (twoBlanks.tables .p0).segments[2]? = some ⟨.blank, 1, 0, 0⟩) ∧
    ((endingAdaptive.seq .p0).segment = some 1 ∧ 16 ≤ (endingAdaptive.seq .p0).progress + 1 ∧
      (endingAdaptive.tables .p0).segments[2]? = none ∧ (endingAdaptive.pd .p0).refresh = .adaptive ∧
      (endingAdaptive.ingress .p0).waiting = [] ∧ (endingAdaptive.pd .p0).stretchLimit ≠ 0 ∧
      endingAdaptive.claim .p0 = ⟨none, none⟩ ∧ (endingAdaptive.pd .p0).stretchSensing = true ∧
      (endingAdaptive.tables .p0).groupList ≠ []) :=
  ⟨by decide +kernel, order_lastBlank.mgmt, by decide +kernel, by decide +kernel⟩

/-- A segment of each kind and none after the current one. -/
theorem witness_NextSegment : ((windowIn .hold 0 none).seq .p0).segment = some 1 ∧
    ((windowIn .hold 0 none).tables .p0).segments = [⟨.drive, 64, 0, 0⟩, ⟨.sense, 0, 1, 0⟩, ⟨.blank, 1, 0, 0⟩] ∧
    ((runningIn 0 (withTables scanning up)).seq .p0).segment = some 0 ∧ (lastBlank.seq .p0).segment = some 1 ∧
    (lastBlank.tables .p0).segments[1 + 1]? = none ∧
    (let t := { Tables.reset .p0 with timeline := (timelineReset.set 1 ⟨.drive, 1, 0, 0⟩).set 2 ⟨.blank, 1, 0, 0⟩ }
     ((runningIn 0 (withTables t up)).tables .p0).segments[0 + 1]? = some ⟨.drive, 1, 0, 0⟩) := by decide +kernel

/-- A boundary before the limit, the one at the limit, and one with a window that holds a half. -/
theorem witness_StretchBoundaries :
    (InOrder stretching ∧ (stretching.seq .p0).run = .stretch ∧ (stretching.seq .p0).outcome = .none ∧
      min 4095 ((stretching.seq .p0).stretchCount + 1) < (stretching.pd .p0).stretchLimit ∧
      (stretching.claim .p0).window = none) ∧
    (let s := modSeq .p0 (fun q => { q with stretchCount := 1 }) stretching
     InOrder s ∧ (s.pd .p0).stretchLimit ≤ min 4095 ((s.seq .p0).stretchCount + 1) ∧ (s.seq .p0).outcome = .none ∧
       (s.claim .p0).window = none) ∧
    (let s := modSeq .p0 (fun q => { q with outcome := .ticket }) (freeWindowIn .setup 1)
     InOrder s ∧ (s.seq .p0).run = .stretch ∧ (s.seq .p0).outcome ≠ .none ∧ (s.claim .p0).window ≠ none) := by
  refine ⟨⟨order_stretching, ?_⟩, ⟨inOrder_of_check (by decide +kernel), ?_⟩, inOrder_of_check (by decide +kernel), ?_⟩ <;>
    decide +kernel

/-- Panel 0 has nothing with the arbiter, and panel 1 holds half A. -/
def halfTaken : State :=
  modArb (fun r => { r with a := ⟨some .p1, none⟩ })
    (modClaim .p1 (fun _ => ⟨none, some ⟨1, 1, none⟩⟩)
      (modSeq .p1 (fun q => { q with run := .stretch, locked := true, phase := .setup })
        (withTables scanning up)))

/-- Panel 0 has gaps of these lengths, and panel 1 is the last user of half B. -/
def usedByOther (switch setup : Nat) : State :=
  modArb (fun r => { r with b := ⟨none, some .p1⟩ })
    (withTables { scanning with pd := { scanning.pd with switchGap := switch, setupGap := setup } } up)

/-- Both halves are free; one is taken and the request needs two, with a deadline and without. A FREE request of the same needs. -/
theorem witness_SenseRequests :
    (SenseOk committed ∧ committed.claim .p0 = ⟨none, none⟩ ∧ FreeFor committed .p0 .a ∧ FreeFor committed .p0 .b) ∧
    (SenseOk halfTaken ∧ halfTaken.claim .p0 = ⟨none, none⟩ ∧ ¬ FreeFor halfTaken .p0 .a ∧
      needOf (halfTaken.tables .p0).groupList (halfTaken.touch .p0).cursor 1 = 2 ∧ halfTaken.arb.b.holder = none ∧
      (halfTaken.pd .p0).waitLimit ≠ 0) ∧
    (modClaim .p0 (fun _ => ⟨some (committed.freeRequest .p0), none⟩) committed).canGrant .p0 = true ∧
    (committed.freeRequest .p0).need = 1 ∧ (halfTaken.freeRequest .p0).need = 2 ∧ committed.grantee = none := by
  refine ⟨⟨order_committed.sense, by decide +kernel, ⟨by decide +kernel, ofSome (by decide +kernel)⟩,
    by decide +kernel, ofSome (by decide +kernel)⟩, ⟨senseOk_of_check (by decide +kernel), by decide +kernel,
    fun h => absurd h.1 (by decide +kernel), by decide +kernel⟩, by decide +kernel⟩

/-- A grant of two halves with a switch gap due and one with none, each with gaps to run and without. -/
theorem witness_SenseRequests_phases :
    (∀ g ∈ [(1, 1), (0, 1), (0, 0)], let s := usedByOther g.1 g.2
      SenseOk s ∧ s.claim .p0 = ⟨none, none⟩ ∧ (s.timelineRequest .p0 ⟨.sense, 0, 1, 0⟩).need = 2 ∧
      CanMeet s .p0 (s.timelineRequest .p0 ⟨.sense, 0, 1, 0⟩) ∧ SwitchDue s .p0 (s.timelineRequest .p0 ⟨.sense, 0, 1, 0⟩) ∧
      (s.pd .p0).switchGap = g.1 ∧ (s.pd .p0).setupGap = g.2) ∧
    ¬ SwitchDue committed .p0 (committed.freeRequest .p0) ∧ CanMeet committed .p0 (committed.freeRequest .p0) := by
  refine ⟨fun g hg => ?_, ?_, Or.inl ⟨⟨by decide +kernel, ofSome (by decide +kernel)⟩, by decide +kernel, ofSome (by decide +kernel)⟩⟩
  · have h : ∀ g ∈ [(1, 1), (0, 1), (0, 0)], let s := usedByOther g.1 g.2
        senseCheck s = true ∧ s.claim .p0 = ⟨none, none⟩ ∧ (s.timelineRequest .p0 ⟨.sense, 0, 1, 0⟩).need = 2 ∧
        s.arb.a.holder = none ∧ s.arb.b = ⟨none, some .p1⟩ ∧ s.arb.reservation = none ∧
        (s.pd .p0).switchGap = g.1 ∧ (s.pd .p0).setupGap = g.2 := by decide +kernel
    obtain ⟨h1, h2, h3, h4, h5, h6, h7⟩ := h g hg
    refine ⟨senseOk_of_check h1, h2, h3, Or.inl ⟨⟨h4, fun v hv => ?_⟩, by rw [h5], fun v hv => ?_⟩,
      ⟨.b, Or.inl h3, by rw [Arbiter.half, h5]; rfl⟩, h7⟩ <;> rw [h6] at hv <;> cases hv
  · rintro ⟨h, -, hu⟩
    revert hu
    cases h <;> decide +kernel

/-- The rule grants one request, or one after the other. -/
theorem witness_SenseRequests_rule :
    let one := modClaim .p0 (fun _ => ⟨some (committed.freeRequest .p0), none⟩) committed
    let both := modClaim .p1 (fun _ => ⟨some (committed.freeRequest .p1), none⟩) one
    one.grantee = some .p0 ∧ (one.claim .p0).request.map Request.need = some 1 ∧ (grant .p0 one).grantee = none ∧
    both.grantee = some .p0 ∧ (grant .p0 both).grantee = some .p1 ∧
    ((grant .p0 both).claim .p1).request.map Request.need = some 1 := by decide +kernel

/-- Panel 1 waits for two halves, of which half B is set aside for it. -/
def contest (s : State) : State :=
  modArb (fun r => { r with reservation := some ⟨.p1, false, true⟩ })
    (modClaim .p1 (fun _ => ⟨some ⟨.timeline, 1, 2, some .wait, some 200⟩, none⟩)
      (modSeq .p1 (fun q => { q with run := .running, locked := true, segment := some 1, phase := .request })
        (modMgmt .p1 (fun m => { m with active := scanning, staged := scanning, committed := true }) s)))

/-- The hold gap of panel 0 runs while panel 1 waits for two halves. -/
def contested : State := contest (windowIn .hold 0 none)

theorem witness_DeadlineAndHoldEnd :
    (SenseOk waiting ∧ (waiting.seq .p0).run = .running ∧ (waiting.seq .p0).segment = some 1 ∧
      (waiting.tables .p0).segments[1 + 1]? = some ⟨.blank, 1, 0, 0⟩ ∧
      (waiting.claim .p0).request = some ⟨.timeline, 1, 2, some .wait, some 200⟩) ∧
    (SenseOk (windowIn .hold 0 none) ∧ ((windowIn .hold 0 none).seq .p0).phase = .hold ∧
      ((windowIn .hold 0 none).seq .p0).run = .running ∧ ((windowIn .hold 0 none).seq .p0).segment = some 1 ∧
      ((windowIn .hold 0 none).tables .p0).segments[1 + 1]? = some ⟨.blank, 1, 0, 0⟩) ∧
    (SenseOk contested ∧ (contested.seq .p0).phase = .hold ∧ (contested.seq .p0).segment = some 1 ∧
      contested.waitsForTwo Panel.p0.other = true) ∧
    (SenseOk (freeWindowIn .hold 0) ∧ ((freeWindowIn .hold 0).seq .p0).outcome = .none ∧
      (freeWindowIn .hold 0).sensesStretch .p0 = true) ∧
    (SenseOk (contest (freeWindowIn .hold 0)) ∧ (contest (freeWindowIn .hold 0)).waitsForTwo Panel.p0.other = true) ∧
    (let s := modSeq .p0 (fun q => { q with outcome := .ticket }) (freeWindowIn .hold 0)
     SenseOk s ∧ (s.seq .p0).run = .stretch ∧ (s.seq .p0).outcome ≠ .none ∧ (s.seq .p0).deferred = false) ∧
    (let s := modSeq .p0 (fun q => { q with outcome := .ticket, deferred := true }) (freeWindowIn .hold 0)
     SenseOk s ∧ (s.seq .p0).deferred = true ∧ MgmtOk s) := by
  refine ⟨⟨senseOk_of_check (by decide +kernel), by decide +kernel⟩, ⟨senseOk_of_check (by decide +kernel), by decide +kernel⟩,
    ⟨senseOk_of_check (by decide +kernel), by decide +kernel⟩, ⟨senseOk_of_check (by decide +kernel), by decide +kernel⟩,
    ⟨senseOk_of_check (by decide +kernel), by decide +kernel⟩, ⟨senseOk_of_check (by decide +kernel), by decide +kernel⟩,
    senseOk_of_check (by decide +kernel), by decide +kernel, mgmtOk_of_check (by decide +kernel)⟩

theorem witness_GapEnds : ((windowIn .switch 1 none).seq .p0).phase = .switch ∧ ((windowIn .switch 1 none).pd .p0).setupGap ≠ 0 ∧
    ((windowIn .setup 1 none).seq .p0).phase = .setup ∧
    (let s := withTables { scanning with pd := { scanning.pd with setupGap := 0 } } (windowIn .switch 1 none)
     (s.seq .p0).phase = .switch ∧ (s.pd .p0).setupGap = 0) := by decide +kernel

/-- The last burst of a window and one with another to come, of a group in the middle; then of the last group. -/
theorem witness_BurstComplete :
    let s := windowIn .burst 1 (some ⟨1, 150⟩)
    let two := windowIn .burst 2 (some ⟨1, 150⟩)
    let end_ := withTables { scanning with pd := { scanning.pd with holdGap := 0 } } (windowIn .burst 1 (some ⟨2, 150⟩))
    StoresOk s ∧ StoresOk two ∧ StoresOk end_ ∧ (s.seq .p0).phase = .burst ∧
    (s.claim .p0).window = some ⟨1, 1, some ⟨1, 150⟩⟩ ∧
    (s.tables .p0).groupList[1]? = some ⟨true, 1, 0, 2⟩ ∧ 1 + 1 ≠ (s.tables .p0).groupList.length ∧
    ([40, 50] : List Word).length = 2 ∧ 0 + 2 ≤ 64 ∧ (s.pd .p0).holdGap ≠ 0 ∧
    (two.claim .p0).window = some ⟨1, 2, some ⟨1, 150⟩⟩ ∧
    (end_.claim .p0).window = some ⟨1, 1, some ⟨2, 150⟩⟩ ∧ (end_.seq .p0).phase = .burst ∧
    (end_.tables .p0).groupList[2]? = some ⟨true, 2, 0, 2⟩ ∧ 2 + 1 = (end_.tables .p0).groupList.length ∧
    (end_.pd .p0).holdGap = 0 := by
  refine ⟨storesOk_of_check (by decide +kernel), storesOk_of_check (by decide +kernel),
    storesOk_of_check (by decide +kernel), ?_⟩
  decide +kernel

/-- A completion that reseeds and one that does not, of a matrix of 24 measured cells, on a link that is UP. -/
theorem witness_CycleCompletes :
    let s := windowIn .burst 1 (some ⟨1, 150⟩)
    let t := modTouch .p0 (fun x => { x with reseed := false, lastHad := true }) s
    StoresOk s ∧ StoresOk t ∧ LinkOk s ∧ LinkOk t ∧ (s.tables .p0).measured.Nodup ∧
    (∀ c ∈ (s.tables .p0).measured, c.1 < 64) ∧ (s.touch .p0).reseed = true ∧ (t.touch .p0).reseed = false ∧
    (t.touch .p0).lastHad = true ∧ t.link.state = .up ∧ (s.tables .p0).measured.length = 24 := by
  refine ⟨storesOk_of_check (by decide +kernel), storesOk_of_check (by decide +kernel), linkOk_of_check (by decide +kernel),
    linkOk_of_check (by decide +kernel), ?_⟩
  decide +kernel

/-- Pixel (1, 1) is in region 0, whatever its mode, and no region covers pixel (2, 1). -/
theorem witness_DrivenPixels : ∀ r ∈ [square .host false, square .host true, square .retained true, square .retained false],
    let s := withRegion r driving
    2 < (s.pd .p0).width ∧ (s.tables .p0).regions[0]? = some r ∧ (s.composer .p0).regions[0]? = some RegionState.reset ∧
    (r.valid = true ∧ r.x0 ≤ 1 ∧ 1 ≤ r.x1 ∧ r.y0 ≤ 1 ∧ 1 ≤ r.y1) ∧
    ∀ r' ∈ (s.tables .p0).regions.toList, ¬ (r'.valid = true ∧ r'.x0 ≤ 2 ∧ 2 ≤ r'.x1 ∧ r'.y0 ≤ 1 ∧ 1 ≤ r'.y1) := by
  decide +kernel

theorem witness_DrivenPixels_modes : (square .host false).mode = .window ∧ (square .host true).mode = .mirror ∧
    (square .retained true).mode = .staged ∧ (square .retained false).mode = .fixed := by decide

/-- Panel 0 drives a host line in LIVE with a mirror region over its first two columns. -/
def capturing : State :=
  modIngress .p0 (fun g => { g with driving := some (slot 5 0) })
    { withRegion (square .host true) (ticketed driving) with freeSlots := 94 }

theorem witness_CaptureAndExchange : StoresOk capturing ∧ MgmtOk capturing ∧ ImagesOk capturing ∧
    capturing.store.read (blockBytes + 6) = 0 ∧ (∀ x ≤ 1, ∀ k < 3, blockBytes + 6 ≠ imageAddr (square .host true) 1 x 0 + k) ∧
    ((capturing.sup .p0).mode = .live ∧ (capturing.ingress .p0).driving = some (slot 5 0) ∧
      (slot 5 0).pixels.length = (capturing.pd .p0).width ∧ (capturing.tables .p0).regions[0]? = some (square .host true) ∧
      (capturing.composer .p0).regions[0]? = some RegionState.reset ∧ (square .host true).valid = true ∧
      (square .host true).capture = true ∧ (square .host true).y0 ≤ 0 ∧ 0 ≤ (square .host true).y1 ∧
      ¬ 2 ≤ (square .host true).y1 ∧ (square .host true).mode ≠ .window) ∧
    (driving.ingress .p0).driving = none :=
  ⟨storesOk_of_check (by decide +kernel), mgmtOk_of_check (by decide +kernel), imagesOk_of_check (by decide +kernel),
    by decide +kernel, by decide +kernel, by decide +kernel, by decide +kernel⟩

/-- A mask with both rows of the region, and one with the first alone. -/
theorem witness_CaptureAndExchange_frameEnd :
    let s (mask : List Nat) := modComposer .p0 (fun c => { c with
      regions := c.regions.set 0 ⟨.valid, .second, mask, none⟩ }) capturing
    ((s [0]).flag (.panel .captureIncomplete .p0)).count ≤ 255 ∧
    ((s [0, 1]).tables .p0).regions[0]? = some (square .host true) ∧ (square .host true).valid = true ∧
    (square .host true).capture = true ∧ ((s [0]).tables .p0).regions[1]?.map Region.valid = some false ∧
    ((s [0, 1]).composer .p0).regions[0]? = some ⟨.valid, .second, [0, 1], none⟩ ∧
    (∀ row < (square .host true).y1 - (square .host true).y0 + 1, row ∈ [0, 1]) ∧
    ((s [0]).composer .p0).regions[0]? = some ⟨.valid, .second, [0], none⟩ ∧
    ¬ ∀ row < (square .host true).y1 - (square .host true).y0 + 1, row ∈ [0] := by decide +kernel

/-- Panel 0 drives black pixels at line `y`, with a checked region of its first two rows and columns, and takes the CAPTURE of
that line. -/
def checking (y : Nat) : State :=
  modComposer .p0 (fun c => { c with driven := some black, regions := c.regions.set 0 ⟨.empty, .first, [], some ⟨crcInit, 0⟩⟩ })
    (modSeq .p0 (fun q => { q with linePos := y, linesDriven := y })
      (runningIn 0 (withTables
        { Tables.reset .p0 with
          pd := { PanelDescriptor.reset .p0 with marker := some y, binding := .capture }
          regions := (Vector.replicate 16 Region.reset).set 0 { square .host false with check := true } } up)))

/-- A row of the region and one beyond it; the marker line; the last line, where a region is checked, and another. -/
theorem witness_RegionChecks : (∀ y ∈ [0, 63], InOrder (checking y) ∧ ((checking y).composer .p0).driven = some black ∧
      ((checking y).tables .p0).regions[0]? = some { square .host false with check := true } ∧
      ((checking y).composer .p0).regions[0]? = some ⟨.empty, .first, [], some ⟨crcInit, 0⟩⟩ ∧
      ((checking y).seq .p0).run = .running ∧ ((checking y).seq .p0).segment = some 0 ∧
      ((checking y).tables .p0).segments[0]? = some ⟨.drive, 64, 0, 0⟩ ∧ (checking y).link.state = .up ∧
      ((checking y).seq .p0).markDone = false ∧ ((checking y).seq .p0).linePos = y ∧
      ((checking y).pd .p0).marker = some y ∧ ((checking y).pd .p0).binding = .capture ∧
      (checking y).link.queue.countP OutParcel.isCapture < 8) ∧
    (square .host false).x0 ≤ (square .host false).x1 ∧ (square .host false).x1 < black.length ∧
    ((square .host false).y0 ≤ 0 ∧ 0 ≤ (square .host false).y1) ∧ ¬ 63 ≤ (square .host false).y1 ∧
    ((checking 63).pd .p0).activeLines = 63 + 1 ∧ (driving.pd .p0).marker ≠ some (driving.seq .p0).linePos := by
  refine ⟨fun y hy => ?_, by decide +kernel⟩
  have h : ∀ y ∈ [0, 63], orderCheck (checking y) = true ∧ ((checking y).composer .p0).driven = some black ∧
      ((checking y).tables .p0).regions[0]? = some { square .host false with check := true } ∧
      ((checking y).composer .p0).regions[0]? = some ⟨.empty, .first, [], some ⟨crcInit, 0⟩⟩ ∧
      ((checking y).seq .p0).run = .running ∧ ((checking y).seq .p0).segment = some 0 ∧
      ((checking y).tables .p0).segments[0]? = some ⟨.drive, 64, 0, 0⟩ ∧ (checking y).link.state = .up ∧
      ((checking y).seq .p0).markDone = false ∧ ((checking y).seq .p0).linePos = y ∧
      ((checking y).pd .p0).marker = some y ∧ ((checking y).pd .p0).binding = .capture ∧
      (checking y).link.queue.countP OutParcel.isCapture < 8 := by decide +kernel
  exact ⟨inOrder_of_check (h y hy).1, (h y hy).2⟩

/-- The last line leaves a CAPTURE and a CHECK parcel in the queue, in the order the free value picks. -/
theorem test_regionChecks : ((checking 63).checkEntries .p0).map CheckEntry.region = [0] ∧
    ((foldChecks .p0 0 (checking 0)).checkEntries .p0).map CheckEntry.substituted = [1] := by decide +kernel

/-- An empty CHECK parcel and an empty TOUCH of a panel. -/
def emptyCheck (p : Panel) : CheckParcel := ⟨p, none, .live, 255, []⟩
def emptyTouch (p : Panel) : TouchParcel := ⟨p, 0, 0, 1, false, false, false, []⟩

theorem witness_CoalescingOffers : State.reset.link.state ≠ .up ∧
    (up.link.state = .up ∧ up.link.queue = [] ++ up.link.unsent) ∧
    (let s := { up with link := { up.link with
        queue := [.touch (emptyTouch .p0), .check (emptyCheck .p0), .touch (emptyTouch .p0)], sending := some [] } }
     s.link.queue = [.touch (emptyTouch .p0)] ++ s.link.unsent ∧
     s.link.unsent = [.check (emptyCheck .p0)] ++ .touch (emptyTouch .p0) :: [] ∧
     s.link.unsent = [] ++ .check (emptyCheck .p0) :: [.touch (emptyTouch .p0)]) := by decide +kernel

end Sys2Proof.Tests
end

section
/-! LOCK_SUPERVISION (R80): what a request that is executed comes to, what its reply changes, and the lock itself. -/

namespace Sys2Proof.Machine.SupervisionLock

variable (s : State) (p : Panel)

/-! ### Requests that are executed (R136, R156, R157) -/

theorem panelOf_panelByte : panelOf (panelByte p) = some p := by cases p <;> rfl

/-- The byte of a panel passes the check of the panel operand (R136). -/
theorem withPanel_panelByte (tag : Byte) (run : Panel → State → State) :
    withPanel (panelByte p) tag run s = run p s := by
  unfold withPanel
  rw [panelOf_panelByte]

/-- A request that is taken is executed on the state whose receiver is back in HUNT (R154, R157). -/
theorem onRequest_of_taken {c : Instr} (execute : State → State) (h : Taken c s) :
    onRequest c execute s = execute (toHunt s) := by
  obtain ⟨harrives, hreplies⟩ := h
  have hroom : (toHunt s).link.replyCount < Config.replyCap := hreplies
  unfold onRequest onArrival
  rw [if_pos harrives]
  exact if_pos hroom

theorem mgmt_toHunt : (toHunt s).mgmt p = s.mgmt p := mgmt_modLink p s _

/-! ### Replies (R129) -/

theorem mgmt_replyCommand (b tag : Byte) (st : Status) : (replyCommand b tag st s).mgmt p = s.mgmt p :=
  mgmt_modLink p s _

/-- The reply given at a state `u` that has the head link of `s` back in HUNT is the only parcel that joins the queue. -/
theorem replied_replyCommand {s u : State} (b tag : Byte) (st : Status) (h : u.link = (toHunt s).link) :
    Replied s (replyCommand b tag st u) (statusReply .command b tag st) := by
  have hlink : (replyCommand b tag st u).link =
      { s.link with
        rx := .hunt, queue := s.link.queue ++ [.reply (statusReply .command b tag st)]
        replyCount := s.link.replyCount + 1 } := by
    unfold replyCommand offerReply
    rw [link_modLink, h]
    rfl
  unfold Replied
  rw [hlink]
  exact ⟨⟨[], by simp⟩, rfl, rfl⟩

/-! ### The lock (R80) -/

theorem doLock_of_pending (b tag : Byte) (h : (s.mgmt p).commitPending = true) :
    doLock b tag p s = replyCommand b tag .pending s := if_pos h

theorem doLock_of_not_pending (b tag : Byte) (h : (s.mgmt p).commitPending = false) :
    doLock b tag p s = replyCommand b tag .ok (modMgmt p Mgmt.lock s) := if_neg (by simp [h])

theorem exec_lockSupervision (tag : Byte) (h : Taken (.lockSupervision (panelByte p) tag) s) :
    exec (.lockSupervision (panelByte p) tag) s = .next (doLock (panelByte p) tag p (toHunt s)) := by
  have hexec : exec (.lockSupervision (panelByte p) tag) s =
      .next (onRequest (.lockSupervision (panelByte p) tag)
        (withPanel (panelByte p) tag (doLock (panelByte p) tag)) s) := rfl
  rw [hexec, onRequest_of_taken s _ h, withPanel_panelByte]

/-- The refusal of a LOCK_SUPERVISION while a commit is pending changes nothing but the head link (R80). -/
theorem refused_doLock (b tag : Byte) (h : (s.mgmt p).commitPending = true) :
    Replied s (doLock b tag p (toHunt s)) (statusReply .command b tag .pending) ∧
      Unchanged [.receiver, .queue, .replyCount] s (doLock b tag p (toHunt s)) := by
  rw [doLock_of_pending (toHunt s) p b tag (by rw [mgmt_toHunt, h])]
  refine ⟨replied_replyCommand b tag .pending rfl, fun a ha => ?_⟩
  simp only [List.mem_cons, not_or] at ha
  obtain ⟨hreceiver, hreply⟩ := ha
  rw [get_replyCommand a _ b tag .pending (by simpa using hreply), get_toHunt a s hreceiver]

/-- With no commit pending the lock is set in the Management Unit of the panel, and the head link has the OK reply; every
other part stays (R80). -/
theorem locked_doLock (b tag : Byte) (h : (s.mgmt p).commitPending = false) :
    (doLock b tag p (toHunt s)).mgmt p = (s.mgmt p).lock ∧
      Replied s (doLock b tag p (toHunt s)) (statusReply .command b tag .ok) ∧
      Unchanged [.mgmt p, .receiver, .queue, .replyCount] s (doLock b tag p (toHunt s)) := by
  rw [doLock_of_not_pending (toHunt s) p b tag (by rw [mgmt_toHunt, h])]
  refine ⟨?_, replied_replyCommand b tag .ok (link_modMgmt p _ _), fun a ha => ?_⟩
  · rw [mgmt_replyCommand, mgmt_modMgmt_self, mgmt_toHunt]
  · simp only [List.mem_cons, not_or] at ha
    obtain ⟨hmgmt, hreceiver, hreply⟩ := ha
    rw [get_replyCommand a _ b tag .ok (by simpa using hreply), get_modMgmt a p _ _ hmgmt, get_toHunt a s hreceiver]

/-- Settles O42: the request is executed on the state back in HUNT, and the pending commit decides between the refusal and
the lock. -/
theorem lockSupervision : Obligations.LockSupervision := by
  unfold Obligations.LockSupervision
  intro s p tag htaken
  exact ⟨_, exec_lockSupervision s p tag htaken, refused_doLock s p _ tag, locked_doLock s p _ tag⟩

end Sys2Proof.Machine.SupervisionLock
end

section
/-! Sense windows (R95, R96, R110, R122): the phases of a window and the beginning of a burst. -/

namespace Sys2Proof.Machine.SenseWindows

variable (p q : Panel) (s : State)

/-! ### What the operations of a window leave of the fields -/

/-- A flag is read from the flags alone. -/
theorem flag_of_get {s t : State} (h : t.get .flags = s.get .flags) (f : FlagId) : t.flag f = s.flag f := by
  obtain ⟨hpart, hpanels⟩ := Prod.ext_iff.1 h
  obtain ⟨hpanel0, hpanel1⟩ := Prod.ext_iff.1 hpanels
  cases f with
  | part src => exact congrArg (fun v : Vector Flag 4 => v[src.idx]) hpart
  | panel src p =>
    cases p with
    | p0 => exact congrArg (fun v : Vector Flag 19 => v[src.idx]) hpanel0
    | p1 => exact congrArg (fun v : Vector Flag 19 => v[src.idx]) hpanel1

theorem flag_modTouch (f : Touch → Touch) (g : FlagId) : (modTouch p f s).flag g = s.flag g :=
  flag_of_get (get_modTouch .flags p s f nofun) g

theorem touch_occur (f : FlagId) (info : Word) : (occur f info s).touch q = s.touch q :=
  get_occur (.touch q) s f info (by simp [noticeParts])

theorem seq_startCycle : (startCycle p s).seq q = s.seq q :=
  get_startCycle (.seq q) p s (by simp [noticeParts])

theorem claim_startCycle : (startCycle p s).claim q = s.claim q :=
  get_startCycle (.claim q) p s (by simp [noticeParts])

theorem tables_startCycle : (startCycle p s).tables q = s.tables q :=
  congrArg Mgmt.active (get_startCycle (.mgmt q) p s (by simp [noticeParts]))

/-! ### The phase -/

theorem setPhase_setPhase (ph ph' : SensePhase) : setPhase p ph (setPhase p ph' s) = setPhase p ph s := by
  cases p <;> rfl

theorem setPhase_of_phase {p : Panel} {s : State} {ph : SensePhase} (h : (s.seq p).phase = ph) :
    setPhase p ph s = s := by
  subst h
  cases p <;> rfl

@[simp] theorem seq_setPhase (ph : SensePhase) : (setPhase p ph s).seq p = { s.seq p with phase := ph } :=
  seq_modSeq_self p s _

@[simp] theorem arb_setPhase (ph : SensePhase) : (setPhase p ph s).arb = s.arb := arb_modSeq p s _

@[simp] theorem claim_setPhase (ph : SensePhase) : (setPhase p ph s).claim q = s.claim q := claim_modSeq p q s _

@[simp] theorem touch_setPhase (ph : SensePhase) : (setPhase p ph s).touch q = s.touch q := touch_modSeq p q s _

@[simp] theorem pd_setPhase (ph : SensePhase) : (setPhase p ph s).pd q = s.pd q := pd_modSeq p q s _

/-! ### The start of a scan cycle -/

/-- A cycle opens with the values of R110, after a pending hop with the advanced hop index and a reseed (R122). -/
theorem touch_startCycle : (startCycle p s).touch p =
    if (s.touch p).hopPending then
      { s.touch p with
        cycleOpen := true, noiseMax := 0, spanned := 1, reseed := true, hopPending := false
        hop := nextHop (s.tables p).hopLength (s.touch p).hop }
    else { s.touch p with cycleOpen := true, noiseMax := 0, spanned := 1 } := by
  unfold startCycle makeHop
  by_cases hpending : (s.touch p).hopPending = true
  · simp [hpending, touch_occur]
  · simp [hpending]

/-- HOP occurs at the start of a cycle where a hop is pending (R122). -/
theorem counted_startCycle : Counted (.panel .hop p) (s.touch p).hopPending s (startCycle p s) := by
  unfold Counted startCycle makeHop
  by_cases hpending : (s.touch p).hopPending = true
  · simp [hpending, count_occur, flag_modTouch]
  · simp [hpending, flag_modTouch]

/-! ### The beginning of a burst -/

/-- The state in which a burst takes its group and frequency: a burst of group 0 has started its cycle (R96, R110). -/
def cycleReady (p : Panel) (s : State) : State := if (s.touch p).cursor = 0 then startCycle p s else s

theorem seq_cycleReady : (cycleReady p s).seq q = s.seq q := by
  unfold cycleReady
  split
  · exact seq_startCycle p q s
  · rfl

theorem claim_cycleReady : (cycleReady p s).claim q = s.claim q := by
  unfold cycleReady
  split
  · exact claim_startCycle p q s
  · rfl

theorem tables_cycleReady : (cycleReady p s).tables q = s.tables q := by
  unfold cycleReady
  split
  · exact tables_startCycle p q s
  · rfl

/-- The frequency in kHz of the Hop Table entry that the hop index names, once a pending hop is made (R96). -/
def burstFrequency (p : Panel) (s : State) : Nat :=
  (((cycleReady p s).tables p).hops.toList.getD ((cycleReady p s).touch p).hop none).getD 0

theorem beginBurst_eq : beginBurst p s = setPhase p .burst (modClaim p (fun c =>
    { c with window := c.window.map fun w => { w with burst := some ⟨(s.touch p).cursor, burstFrequency p s⟩ } })
    (cycleReady p s)) := rfl

theorem touch_beginBurst : (beginBurst p s).touch p = (cycleReady p s).touch p := by
  rw [beginBurst_eq, touch_setPhase, touch_modClaim]

theorem flag_beginBurst (f : FlagId) : (beginBurst p s).flag f = (cycleReady p s).flag f := by
  rw [beginBurst_eq]
  exact (flag_of_get (get_setPhase .flags p _ .burst (by simp)) f).trans (flag_of_get (get_modClaim .flags p _ _ nofun) f)

theorem claim_beginBurst {p : Panel} {s : State} {w : Window} (h : (s.claim p).window = some w) :
    (beginBurst p s).claim p =
      ⟨(s.claim p).request, some { w with burst := some ⟨(s.touch p).cursor, burstFrequency p s⟩ }⟩ := by
  rw [beginBurst_eq, claim_setPhase, claim_modClaim_self, claim_cycleReady, h]
  rfl

/-- The frequency is the one that the Hop Table lists at the hop index of the burst (R96). -/
theorem burstFrequency_of_listed {p : Panel} {s : State} {f : Nat}
    (h : (s.tables p).hops[((beginBurst p s).touch p).hop]? = some (some f)) : burstFrequency p s = f := by
  rw [touch_beginBurst] at h
  unfold burstFrequency
  rw [tables_cycleReady, List.getD_eq_getElem?_getD, Vector.getElem?_toList, h]
  rfl

/-- The beginning of a burst is as the rules tell it (R96, R110, R122). -/
theorem burstBegun_beginBurst : BurstBegun s (beginBurst p s) p where
  phase := by
    rw [beginBurst_eq, seq_setPhase, seq_modClaim, seq_cycleReady]
  cycle := by
    rw [touch_beginBurst]
    unfold cycleReady
    by_cases hcursor : (s.touch p).cursor = 0
    · rw [if_pos hcursor, if_neg (by simp [hcursor]), touch_startCycle]
      rfl
    · rw [if_neg hcursor, if_pos hcursor]
  window := fun w hw => ⟨_, claim_beginBurst hw, rfl, fun _ hf => burstFrequency_of_listed hf⟩
  hop := by
    unfold Counted
    rw [flag_beginBurst]
    unfold cycleReady
    by_cases hcursor : (s.touch p).cursor = 0
    · simpa [hcursor, Counted] using counted_startCycle p s
    · simp [hcursor]
  frame := fun a ha => get_beginBurst a p s ha

/-! ### The gaps before the first burst -/

theorem enterSetup_of_gap {p : Panel} {s : State} (h : (s.pd p).setupGap ≠ 0) : enterSetup p s = setPhase p .setup s :=
  if_neg h

theorem enterSetup_of_no_gap {p : Panel} {s : State} (h : (s.pd p).setupGap = 0) :
    enterSetup p s = beginBurst p (setPhase p .setup s) := if_pos h

theorem enterSwitch_of_gap {p : Panel} {s : State} (h : (s.pd p).switchGap ≠ 0) :
    enterSwitch p s = setPhase p .switch s := if_neg h

/-- A switch gap of 0 leaves no trace (R95). -/
theorem enterSwitch_of_no_gap {p : Panel} {s : State} (h : (s.pd p).switchGap = 0) :
    enterSwitch p s = enterSetup p s := by
  unfold enterSwitch enterSetup
  rw [if_pos h, pd_setPhase, setPhase_setPhase]

end Sys2Proof.Machine.SenseWindows
end

section
/-! BURST_COMPLETE (R95 to R97, R109, R110): the delivery of a burst, and what follows it in its window. -/

namespace Sys2Proof.Machine.BurstDelivery

open SenseWindows

/-! ### Raw counts in the Cell State Array (R108, R109) -/

theorem cellKey_inj {col row col' row' : Nat} (hcol : col < 64) (hcol' : col' < 64) :
    cellKey col row = cellKey col' row' ↔ col = col' ∧ row = row' := by
  unfold cellKey
  omega

theorem wf_setCell {t : Touch} (h : Sparse.wf Cell.reset t.cells = true) (col row : Nat) (c : Cell) :
    Sparse.wf Cell.reset (t.setCell col row c).cells = true := Sparse.wf_set _ h _ _

theorem cell_setCell {t : Touch} (h : Sparse.wf Cell.reset t.cells = true) {col col' : Nat} (hcol : col < 64)
    (hcol' : col' < 64) (row row' : Nat) (c : Cell) :
    (t.setCell col row c).cell col' row' = if col' = col ∧ row' = row then c else t.cell col' row' := by
  simp only [← cellKey_inj hcol' hcol]
  exact Sparse.get_set _ h _ _ _

/-- A delivery of raw counts changes nothing of the Touch Processor but its cells. -/
theorem storeRaws_eq (cs : List (Nat × Nat)) (ws : List Word) (t : Touch) :
    Touch.storeRaws cs ws t = { t with cells := (Touch.storeRaws cs ws t).cells } := by
  induction cs generalizing ws t with
  | nil => rfl
  | cons c cs ih =>
    cases ws with
    | nil => rfl
    | cons w ws =>
      simp only [Touch.storeRaws]
      rw [ih]
      rfl

/-- The cells of one row from a column on, as many as there are raw counts. -/
def rowCells (col row n : Nat) : List (Nat × Nat) := (List.range n).map fun i => (col + i, row)

theorem cells_eq_rowCells (g : Group) : g.cells = rowCells g.col g.row g.width := rfl

theorem rowCells_succ (col row n : Nat) : rowCells col row (n + 1) = (col, row) :: rowCells (col + 1) row n := by
  simp only [rowCells, List.range_succ_eq_map, List.map_cons, List.map_map, Nat.add_zero]
  refine congrArg _ (List.map_congr_left fun i _ => ?_)
  simp only [Function.comp, Nat.succ_eq_add_one]
  rw [Nat.add_assoc, Nat.add_comm 1 i]

/-- Each cell of a row of cells takes its raw count, and every other record stays (R109). -/
theorem cell_storeRaws (ws : List Word) (first row : Nat) {t : Touch} (h : Sparse.wf Cell.reset t.cells = true)
    (hfit : first + ws.length ≤ 64) {col' : Nat} (hcol' : col' < 64) (row' : Nat) :
    (Touch.storeRaws (rowCells first row ws.length) ws t).cell col' row' =
      if row' = row ∧ first ≤ col' ∧ col' < first + ws.length
      then { t.cell col' row' with raw := ws.getD (col' - first) 0 } else t.cell col' row' := by
  induction ws generalizing first t with
  | nil =>
    rw [if_neg (by simp)]
    rfl
  | cons w ws ih =>
    simp only [List.length_cons] at hfit ⊢
    have hfirst : first < 64 := by omega
    rw [rowCells_succ, Touch.storeRaws, ih (first + 1) (wf_setCell h _ _ _) (by omega), cell_setCell h hfirst hcol']
    by_cases hrow : row' = row
    · subst hrow
      rcases Nat.lt_trichotomy col' first with hlt | rfl | hgt
      · have hne : col' ≠ first := Nat.ne_of_lt hlt
        have hle : ¬ first ≤ col' := Nat.not_le.2 hlt
        have hle' : ¬ first + 1 ≤ col' := by omega
        simp [hne, hle, hle']
      · have hafter : ¬ col' + 1 ≤ col' := Nat.not_succ_le_self col'
        have hwithin : col' < col' + (ws.length + 1) := by omega
        simp [hafter, hwithin]
      · obtain ⟨k, rfl⟩ : ∃ k, col' = first + 1 + k := Nat.exists_eq_add_of_le hgt
        have hsub : first + 1 + k - first = k + 1 := by omega
        have hlt : first + 1 + k < first + (ws.length + 1) ↔ k < ws.length := by omega
        have hle : first ≤ first + 1 + k := by omega
        have hne : first + 1 + k ≠ first := by omega
        simp [hsub, hlt, hle, hne]
    · simp [hrow]

/-! ### The delivery of a burst (R97, R109) -/

variable (p : Panel) (raws : List Word) (noise : Word) (s : State)

/-- The Touch Processor once a burst of group `i` of a table of `n` groups has delivered its raw counts and noise metric and
its cursor has moved, before any completion. -/
def deliveredTouch (n i : Nat) (g : Group) (x : Touch) : Touch :=
  { Touch.storeRaws g.cells raws x with
    noiseMax := if x.noiseMax.toNat < noise.toNat then noise else x.noiseMax
    cursor := if i + 1 = n then 0 else i + 1 }

def delivered (i : Nat) (g : Group) : State :=
  modTouch p (deliveredTouch raws noise (s.tables p).groupList.length i g) s

/-- The burst of the last group completes the cycle (R109, R110). -/
def afterDelivery (i : Nat) (g : Group) : State :=
  if i + 1 = (s.tables p).groupList.length then completeCycle p (delivered p raws noise s i g)
  else delivered p raws noise s i g

theorem deliver_eq {i : Nat} {g : Group} (h : (s.tables p).groupList[i]? = some g) :
    deliver p i raws noise s = afterDelivery p raws noise s i g := by
  obtain ⟨hi, -⟩ := List.getElem?_eq_some_iff.1 h
  have hlast : (s.tables p).groupList.length ≤ i + 1 ↔ i + 1 = (s.tables p).groupList.length := by omega
  unfold deliver afterDelivery delivered
  simp only [h, hlast, decide_eq_true_eq]
  rfl

/-- The delivery changes the cells, the cursor and the cycle noise maximum, and nothing else of the Touch Processor. -/
theorem deliveredTouch_eq (n i : Nat) (g : Group) (x : Touch) : deliveredTouch raws noise n i g x =
    { x with
      cells := (deliveredTouch raws noise n i g x).cells, cursor := if i + 1 = n then 0 else i + 1
      noiseMax := if x.noiseMax.toNat < noise.toNat then noise else x.noiseMax } := by
  unfold deliveredTouch
  rw [storeRaws_eq]

theorem touch_delivered (i : Nat) (g : Group) : (delivered p raws noise s i g).touch p =
    deliveredTouch raws noise (s.tables p).groupList.length i g (s.touch p) := touch_modTouch_self p s _

theorem wf_cells {s : State} (h : StoresOk s) : Sparse.wf Cell.reset (s.touch p).cells = true := by
  cases p with
  | p0 => exact h.cells0
  | p1 => exact h.cells1

theorem cell_delivered {raws : List Word} {s : State} {g : Group} (h : StoresOk s) (hlength : raws.length = g.width)
    (hfit : g.col + g.width ≤ 64) (i : Nat) {col : Nat} (hcol : col < 64) (row : Nat) :
    ((delivered p raws noise s i g).touch p).cell col row =
      if row = g.row ∧ g.col ≤ col ∧ col < g.col + g.width
      then { (s.touch p).cell col row with raw := raws.getD (col - g.col) 0 } else (s.touch p).cell col row := by
  rw [touch_delivered]
  have hcells := cell_storeRaws raws g.col g.row (wf_cells p h) (hlength ▸ hfit) hcol row
  rw [hlength, ← cells_eq_rowCells] at hcells
  exact hcells

theorem unchanged_delivered (i : Nat) (g : Group) : Unchanged [.touch p] s (delivered p raws noise s i g) :=
  fun a ha => get_modTouch a p s _ (by simpa using ha)

/-! ### What follows in the window (R95 to R97) -/

theorem get_afterDelivery (a : Part) (i : Nat) (g : Group) (h : a ∉ .touch p :: .openOrders :: noticeParts) :
    (afterDelivery p raws noise s i g).get a = s.get a := by
  have hdelivered : (delivered p raws noise s i g).get a = s.get a :=
    unchanged_delivered p raws noise s i g a (by simpa using fun ha => h (by simp [ha]))
  unfold afterDelivery
  split
  · rw [get_completeCycle a p _ h, hdelivered]
  · exact hdelivered

/-- The window of a panel with one burst fewer to make, in a phase: the state `v` is the one after the delivery. -/
def windowLeft (v : State) (w : Window) (ph : SensePhase) : State :=
  v.setPanel p { v.panel p with
    seq := { s.seq p with phase := ph }
    claim := ⟨(s.claim p).request, some { w with remaining := w.remaining - 1, burst := none }⟩ }

/-- The step from one burst of a window to what follows it: one burst fewer remains, and none is in progress. -/
def burstEnded (v : State) : State :=
  modClaim p (fun c =>
    { c with window := c.window.map fun w => { w with remaining := w.remaining - 1, burst := none } }) v

theorem setPhase_modClaim (ph : SensePhase) (f : SenseClaim → SenseClaim) : setPhase p ph (modClaim p f s) =
    s.setPanel p { s.panel p with seq := { s.seq p with phase := ph }, claim := f (s.claim p) } := by
  cases p <;> rfl

theorem windowLeft_eq {p : Panel} {s v : State} {w : Window} (hseq : v.seq p = s.seq p) (hclaim : v.claim p = s.claim p)
    (hw : (s.claim p).window = some w) (ph : SensePhase) :
    windowLeft p s v w ph = setPhase p ph (burstEnded p v) := by
  unfold windowLeft burstEnded
  rw [setPhase_modClaim, hseq, hclaim, hw]
  rfl

theorem burstDone_eq {p : Panel} {s v : State} {w : Window} {i : Nat} (hdeliver : deliver p i raws noise s = v)
    (hclaim : v.claim p = s.claim p) (hw : (s.claim p).window = some w) : burstDone p i raws noise s =
      if w.remaining - 1 = 0 then enterHold p (burstEnded p v) else beginBurst p (burstEnded p v) := by
  have hwindow : ((burstEnded p v).claim p).window =
      some { w with remaining := w.remaining - 1, burst := none } := by
    unfold burstEnded
    rw [claim_modClaim_self, hclaim, hw]
    rfl
  unfold burstDone
  unfold burstEnded at hwindow ⊢
  simp only [hdeliver, hwindow]

theorem burstGroup_eq {p : Panel} {raws : List Word} {s : State} {w : Window} {b : Burst} {g : Group}
    (hphase : (s.seq p).phase = .burst) (hw : (s.claim p).window = some w) (hb : w.burst = some b)
    (hg : (s.tables p).groupList[b.group]? = some g) (hlength : raws.length = g.width) :
    s.burstGroup p raws = some b.group := by
  unfold State.burstGroup
  simp [hphase, hw, hb, hg, hlength]

theorem exec_burstComplete {p : Panel} {raws : List Word} {s : State} {i : Nat} (h : s.burstGroup p raws = some i) :
    exec (.burstComplete p raws noise) s = .next (burstDone p i raws noise s) := by
  change execBurstComplete p raws noise s = _
  unfold execBurstComplete
  rw [h]

theorem exec_holdGapEnd {p : Panel} {s : State} (h : (s.seq p).phase = .hold) :
    exec (.holdGapEnd p) s = .next (holdEnd p s) := by
  change execHoldGapEnd p s = _
  unfold execHoldGapEnd
  rw [if_pos h]

theorem pd_burstEnded (v : State) : (burstEnded p v).pd p = v.pd p := pd_modClaim p p v _

theorem enterHold_of_gap {p : Panel} {s : State} (h : (s.pd p).holdGap ≠ 0) : enterHold p s = setPhase p .hold s :=
  if_neg h

theorem enterHold_of_no_gap {p : Panel} {s : State} (h : (s.pd p).holdGap = 0) :
    enterHold p s = holdEnd p (setPhase p .hold s) := if_pos h

/-- Settles O54: the burst is delivered, and the bursts that remain decide between the next burst and HOLD, whose gap of 0
ends in the same event. -/
theorem burstComplete : Obligations.BurstComplete := by
  unfold Obligations.BurstComplete
  intro s p raws noise w b g hstores hphase hw hb hg hlength hfit
  have hexec := exec_burstComplete noise (burstGroup_eq hphase hw hb hg hlength)
  let v := afterDelivery p raws noise s b.group g
  have hseq : v.seq p = s.seq p := get_afterDelivery p raws noise s (.seq p) b.group g (by simp [noticeParts])
  have hclaim : v.claim p = s.claim p := get_afterDelivery p raws noise s (.claim p) b.group g (by simp [noticeParts])
  have hmgmt : v.mgmt p = s.mgmt p := get_afterDelivery p raws noise s (.mgmt p) b.group g (by simp [noticeParts])
  have hpd : (burstEnded p v).pd p = s.pd p := by rw [pd_burstEnded]; exact congrArg (·.active.pd) hmgmt
  have hdone := burstDone_eq raws noise (deliver_eq p raws noise s hg) hclaim hw
  have hleft := windowLeft_eq hseq hclaim hw
  have hburst : setPhase p .burst (burstEnded p v) = burstEnded p v :=
    setPhase_of_phase (by unfold burstEnded; rw [seq_modClaim, hseq, hphase])
  simp only [decide_eq_true_eq]
  refine ⟨delivered p raws noise s b.group g,
    fun col row hcol => cell_delivered p noise hstores hlength hfit _ hcol row, ?_, unchanged_delivered p raws noise s _ g, fun hmore => ?_, fun hlast hgap => ?_, fun hlast hgap => ?_⟩
  · rw [touch_delivered]
    exact deliveredTouch_eq raws noise _ _ g _
  · refine ⟨beginBurst p (burstEnded p v), ?_, ?_⟩
    · rw [hexec, hdone, if_neg (by omega)]
    · change BurstBegun (windowLeft p s v w .burst) _ p
      rw [hleft, hburst]
      exact burstBegun_beginBurst p _
  · change _ = Host.Outcome.next (windowLeft p s v w .hold)
    rw [hexec, hdone, if_pos (by omega), hleft, enterHold_of_gap (hpd ▸ hgap)]
  · change _ = exec (.holdGapEnd p) (windowLeft p s v w .hold)
    rw [hexec, hdone, if_pos (by omega), hleft, enterHold_of_no_gap (hpd ▸ hgap), exec_holdGapEnd (by simp)]

end Sys2Proof.Machine.BurstDelivery
end

section
/-! The grant rule and the making of requests (R84 to R93, R95; logs 11 and 36). -/

namespace Sys2Proof.Machine.SenseGrants

open SenseWindows

variable (p q : Panel) (s : State) (r : Request)

/-! ### Halves and needs: what they depend on (R88) -/

theorem freeFor_congr {s s' : State} (h : s'.arb = s.arb) (k : HalfName) : FreeFor s' p k ↔ FreeFor s p k := by
  cases k <;> simp only [FreeFor, h]

theorem takesHalf_congr {s s' : State} (h : s'.arb = s.arb) (k : HalfName) : TakesHalf s' p r k ↔ TakesHalf s p r k := by
  cases k <;> simp only [TakesHalf, freeFor_congr p h]

theorem switchDue_congr {s s' : State} (h : s'.arb = s.arb) : SwitchDue s' p r ↔ SwitchDue s p r := by
  simp only [SwitchDue, takesHalf_congr p r h, h]

theorem canMeet_congr {s s' : State} (h : s'.arb = s.arb) : CanMeet s' p r ↔ CanMeet s p r := by
  simp only [CanMeet, freeFor_congr p h]

theorem canGrant_congr {p : Panel} {s s' : State} (harb : s'.arb = s.arb) (hclaim : s'.claim p = s.claim p) :
    s'.canGrant p = s.canGrant p := by
  unfold State.canGrant
  rw [harb, hclaim]

theorem canGrant_of_no_request {p : Panel} {s : State} (h : (s.claim p).request = none) : s.canGrant p = false := by
  unfold State.canGrant
  rw [h]

/-- A panel that may take no more halves than before has no need met that was not met before. -/
theorem canGrant_mono {p : Panel} {s t : State} (hclaim : t.claim p = s.claim p)
    (ha : FreeFor t p .a → FreeFor s p .a) (hb : FreeFor t p .b → FreeFor s p .b) (h : s.canGrant p = false) :
    t.canGrant p = false := by
  rw [← mayTakeA_iff, ← mayTakeA_iff] at ha
  rw [← mayTakeB_iff, ← mayTakeB_iff] at hb
  unfold State.canGrant at h ⊢
  rw [hclaim]
  cases hr : (s.claim p).request with
  | none => rfl
  | some r =>
    simp only [hr, decide_eq_false_iff_not, Nat.not_le] at h ⊢
    refine Nat.lt_of_le_of_lt (Nat.add_le_add ?_ ?_) h
    · by_cases hm : t.arb.mayTakeA p = true
      · simp [hm, ha hm]
      · simp [hm]
    · by_cases hm : t.arb.mayTakeB p = true
      · simp [hm, hb hm]
      · simp [hm]

/-! ### The choice of the panel that is granted (R88) -/

theorem grantee_of_other_not {p : Panel} {s : State} (h : s.canGrant p.other = false) :
    s.grantee = if s.canGrant p then some p else none := by
  unfold State.grantee
  cases p <;> simp only [Panel.other] at h <;> simp [h]

theorem runGrantRule_of_none {s : State} (h : s.grantee = none) : runGrantRule s = s := by
  unfold runGrantRule
  rw [h]

theorem runGrantRule_of_one {p : Panel} {s : State} (h : s.grantee = some p) (h' : (grant p s).grantee = none) :
    runGrantRule s = grant p s := by
  unfold runGrantRule
  simp only [h, h']

theorem runGrantRule_of_two {p q : Panel} {s : State} (h : s.grantee = some p) (h' : (grant p s).grantee = some q) :
    runGrantRule s = grant q (grant p s) := by
  unfold runGrantRule
  simp only [h, h']

/-- Panel 1's request stands before panel 0's: class first, then sense priority, and panel 0 among equals. -/
theorem panel1First_iff {s : State} {r0 r1 : Request} (h0 : (s.claim .p0).request = some r0)
    (h1 : (s.claim .p1).request = some r1) : s.panel1First = true ↔
      (r1.cls = .timeline ∧ r0.cls = .free) ∨
        (r1.cls = r0.cls ∧ (s.pd .p0).sensePriority < (s.pd .p1).sensePriority) := by
  unfold State.panel1First
  rw [h0, h1]
  cases hc0 : r0.cls <;> cases hc1 : r1.cls <;> simp [hc0, hc1]

theorem exists_request_of_canGrant {p : Panel} {s : State} (h : s.canGrant p = true) :
    ∃ r, (s.claim p).request = some r := by
  cases hr : (s.claim p).request with
  | none => rw [canGrant_of_no_request hr] at h; cases h
  | some r => exact ⟨r, rfl⟩

/-- The request `r` of panel `p` stands before the request `r'` of the other panel in the order of the grant rule (R88). -/
def StandsFirst (s : State) (p : Panel) (r r' : Request) : Prop :=
  (r.cls = .timeline ∧ r'.cls = .free) ∨
    (r.cls = r'.cls ∧ ((s.pd p.other).sensePriority < (s.pd p).sensePriority ∨
      ((s.pd p.other).sensePriority = (s.pd p).sensePriority ∧ p = .p0)))

/-- Of two requests of the two panels exactly one stands first. -/
theorem standsFirst_iff_panel1First {s : State} {r0 r1 : Request} (h0 : (s.claim .p0).request = some r0)
    (h1 : (s.claim .p1).request = some r1) : (StandsFirst s .p1 r1 r0 ↔ s.panel1First = true) ∧
      (StandsFirst s .p0 r0 r1 ↔ s.panel1First = false) := by
  rw [← Bool.not_eq_true, panel1First_iff h0 h1]
  unfold StandsFirst
  cases r0.cls <;> cases r1.cls <;> simp [Panel.other] <;> omega

/-- The panel that the rule grants: its need can be met, and it stands first where the other panel's can be met too. -/
theorem grantee_iff : s.grantee = some p ↔ s.canGrant p = true ∧
    ∀ r r', (s.claim p).request = some r → (s.claim p.other).request = some r' → s.canGrant p.other = true →
      StandsFirst s p r r' := by
  by_cases hother : s.canGrant p.other = true
  · by_cases hown : s.canGrant p = true
    · obtain ⟨r, hr⟩ := exists_request_of_canGrant hown
      obtain ⟨r', hr'⟩ := exists_request_of_canGrant hother
      have hfirst : (∀ r r', (s.claim p).request = some r → (s.claim p.other).request = some r' →
          s.canGrant p.other = true → StandsFirst s p r r') ↔ StandsFirst s p r r' := by
        constructor
        · exact fun h => h r r' hr hr' hother
        · intro h r₁ r₂ h₁ h₂ _
          rw [hr] at h₁
          rw [hr'] at h₂
          cases h₁
          cases h₂
          exact h
      rw [hfirst]
      cases p with
      | p0 =>
        simp only [Panel.other] at hr' hother
        rw [(standsFirst_iff_panel1First hr hr').2]
        simp [State.grantee, hown, hother]
      | p1 =>
        simp only [Panel.other] at hr' hother
        rw [(standsFirst_iff_panel1First hr' hr).1]
        simp [State.grantee, hown, hother]
    · have hnone : s.grantee ≠ some p := by
        cases p <;> simp only [Panel.other] at hother <;> simp [State.grantee, hown, hother]
      simp [hnone, hown]
  · rw [Bool.not_eq_true] at hother
    rw [grantee_of_other_not hother]
    simp [hother]

/-! ### A grant (R88, R90, R95) -/

theorem reservation_endReservation : (endReservation p s).arb.reservation =
    s.arb.reservation.filter fun v => decide (v.panel ≠ p) := by
  unfold endReservation State.reservedFor
  cases hv : s.arb.reservation with
  | none => simp [hv]
  | some v =>
    by_cases hp : v.panel = p
    · simp [hp, Option.filter]
    · simp [hp, hv, Option.filter]

theorem half_endReservation (k : HalfName) : (endReservation p s).arb.half k = s.arb.half k := by
  unfold endReservation
  cases k <;> split <;> rfl

/-- A request becomes its panel's window: its panel holds the halves it takes, and its reservation ends. The window's first
phase is still to come. -/
def windowMade : State :=
  modClaim p (fun _ => ⟨none, some ⟨r.need, r.groups, none⟩⟩)
    (endReservation p (modArb (fun x => x.take p (decide (r.need = 2) || s.arb.mayTakeA p)
      (decide (r.need = 2) || !s.arb.mayTakeA p)) s))

theorem takesA_iff : (decide (r.need = 2) || s.arb.mayTakeA p) = true ↔ TakesHalf s p r .a := by
  simp [TakesHalf, ← mayTakeA_iff]

theorem takesB_iff : (decide (r.need = 2) || !s.arb.mayTakeA p) = true ↔ TakesHalf s p r .b := by
  simp [TakesHalf, ← mayTakeA_iff]

theorem switchDue_iff : s.arb.switchDue p (decide (r.need = 2) || s.arb.mayTakeA p)
    (decide (r.need = 2) || !s.arb.mayTakeA p) = true ↔ SwitchDue s p r := by
  unfold Arbiter.switchDue
  simp only [Bool.or_eq_true (_ && _), Bool.and_eq_true, takesA_iff, takesB_iff, decide_eq_true_eq]
  constructor
  · rintro (h | h)
    · exact ⟨.a, h⟩
    · exact ⟨.b, h⟩
  · rintro ⟨k, h⟩
    cases k with
    | a => exact .inl h
    | b => exact .inr h

/-- A granted window enters SWITCH where a switch gap is due, and else SETUP (R95; log 36). -/
theorem grant_of_switchDue {p : Panel} {s : State} {r : Request} (hr : (s.claim p).request = some r)
    (h : SwitchDue s p r) : grant p s = enterSwitch p (windowMade p s r) := by
  unfold grant
  simp only [hr, (switchDue_iff p s r).2 h, if_true]
  rfl

theorem grant_of_not_switchDue {p : Panel} {s : State} {r : Request} (hr : (s.claim p).request = some r)
    (h : ¬ SwitchDue s p r) : grant p s = enterSetup p (windowMade p s r) := by
  unfold grant
  simp only [hr, mt (switchDue_iff p s r).1 h]
  rfl

theorem half_windowMade_of_takes {k : HalfName} (h : TakesHalf s p r k) :
    (windowMade p s r).arb.half k = ⟨some p, (s.arb.half k).lastUser⟩ := by
  unfold windowMade
  rw [arb_modClaim, half_endReservation, arb_modArb]
  cases k with
  | a => simp [Arbiter.half, Arbiter.take, (takesA_iff p s r).2 h]
  | b => simp [Arbiter.half, Arbiter.take, (takesB_iff p s r).2 h]

theorem half_windowMade_of_not_takes {k : HalfName} (h : ¬ TakesHalf s p r k) :
    (windowMade p s r).arb.half k = s.arb.half k := by
  unfold windowMade
  rw [arb_modClaim, half_endReservation, arb_modArb]
  cases k with
  | a => simp [Arbiter.half, Arbiter.take, mt (takesA_iff p s r).1 h]
  | b => simp [Arbiter.half, Arbiter.take, mt (takesB_iff p s r).1 h]

theorem reservation_windowMade : (windowMade p s r).arb.reservation =
    s.arb.reservation.filter fun v => decide (v.panel ≠ p) := by
  unfold windowMade
  rw [arb_modClaim, reservation_endReservation]
  rfl

theorem get_windowMade (a : Part) (h : a ∉ [Part.arbiter, .claim p]) : (windowMade p s r).get a = s.get a := by
  simp at h
  unfold windowMade
  simp [h]

theorem pd_windowMade : (windowMade p s r).pd q = s.pd q :=
  congrArg (·.active.pd) (get_windowMade p s r (.mgmt q) (by simp))

/-- The window stands in the phase it has entered. -/
theorem windowIn_setPhase (ph : SensePhase) : WindowIn s (setPhase p ph (windowMade p s r)) p r ph := by
  refine ⟨?_, ?_, fun a ha => ?_⟩
  · have hseq : (windowMade p s r).seq p = s.seq p := get_windowMade p s r (.seq p) (by simp)
    rw [seq_setPhase, hseq]
  · rw [claim_setPhase, windowMade, claim_modClaim_self]
  · simp at ha
    rw [get_setPhase a p _ ph (by simp [ha]), get_windowMade p s r a (by simp [ha])]

theorem arb_grant {p : Panel} {s : State} {r : Request} (hr : (s.claim p).request = some r) :
    (grant p s).arb = (windowMade p s r).arb := by
  by_cases hdue : SwitchDue s p r
  · rw [grant_of_switchDue hr hdue]
    exact get_enterSwitch .arbiter p _ (by simp [noticeParts])
  · rw [grant_of_not_switchDue hr hdue]
    exact get_enterSetup .arbiter p _ (by simp [noticeParts])

/-- A window that pays no switch gap goes on to SETUP, whether one is due of length 0 or none. -/
theorem grant_of_no_switch_gap {p : Panel} {s : State} {r : Request} (hr : (s.claim p).request = some r)
    (h : ¬ SwitchDue s p r ∨ (s.pd p).switchGap = 0) : grant p s = enterSetup p (windowMade p s r) := by
  by_cases hdue : SwitchDue s p r
  · rw [grant_of_switchDue hr hdue, enterSwitch_of_no_gap]
    rw [pd_windowMade]
    exact h.resolve_left fun hno => hno hdue
  · exact grant_of_not_switchDue hr hdue

/-- A grant is as the rules tell it (R88, R90, R95; log 36). -/
theorem windowGranted_grant {p : Panel} {s : State} {r : Request} (hr : (s.claim p).request = some r) :
    WindowGranted s (grant p s) p r where
  taken := fun k hk => by rw [arb_grant hr, half_windowMade_of_takes p s r hk]
  kept := fun k hk => by rw [arb_grant hr, half_windowMade_of_not_takes p s r hk]
  reservation := by rw [arb_grant hr, reservation_windowMade]
  switch := fun hdue hgap => by
    rw [grant_of_switchDue hr hdue, enterSwitch_of_gap (by rwa [pd_windowMade])]
    exact windowIn_setPhase p s r .switch
  setup := fun hdue hgap => by
    rw [grant_of_no_switch_gap hr hdue, enterSetup_of_gap (by rwa [pd_windowMade])]
    exact windowIn_setPhase p s r .setup
  burst := fun hdue hgap => by
    rw [grant_of_no_switch_gap hr hdue, enterSetup_of_no_gap (by rwa [pd_windowMade])]
    exact ⟨_, windowIn_setPhase p s r .setup, burstBegun_beginBurst p _⟩

/-- The window of a granted request: its need and its groups, with or without a first burst in progress. -/
theorem claim_of_windowGranted {p : Panel} {s t : State} {r : Request} (h : WindowGranted s t p r) :
    ∃ w, t.claim p = ⟨none, some w⟩ ∧ w.need = r.need ∧ w.remaining = r.groups := by
  by_cases hswitch : SwitchDue s p r ∧ (s.pd p).switchGap ≠ 0
  · obtain ⟨-, hclaim, -⟩ := h.switch hswitch.1 hswitch.2
    exact ⟨_, hclaim, rfl, rfl⟩
  · have hno : ¬ SwitchDue s p r ∨ (s.pd p).switchGap = 0 := by
      by_cases hdue : SwitchDue s p r
      · exact .inr (Decidable.not_not.1 fun hgap => hswitch ⟨hdue, hgap⟩)
      · exact .inl hdue
    by_cases hsetup : (s.pd p).setupGap = 0
    · obtain ⟨u, ⟨-, hclaim, -⟩, hbegun⟩ := h.burst hno hsetup
      obtain ⟨b, hb, -⟩ := hbegun.window _ (by rw [hclaim])
      exact ⟨_, by rw [hb, hclaim], rfl, rfl⟩
    · obtain ⟨-, hclaim, -⟩ := h.setup hno hsetup
      exact ⟨_, hclaim, rfl, rfl⟩

/-- The state in which a request is granted may differ from the one in which it is made in the panel's claim and phase. -/
theorem windowGranted_of_asked {p : Panel} {s s' t : State} {r : Request} (h : WindowGranted s' t p r)
    (hparts : Unchanged [.seq p, .claim p] s s')
    (hseq : ∀ ph, { s'.seq p with phase := ph } = { s.seq p with phase := ph }) : WindowGranted s t p r := by
  have harb : s'.arb = s.arb := hparts .arbiter (by simp)
  have hpd : s'.pd p = s.pd p := congrArg (·.active.pd) (hparts (.mgmt p) (by simp))
  have hin : ∀ {u ph}, WindowIn s' u p r ph → WindowIn s u p r ph := by
    rintro u ph ⟨hphase, hclaim, hframe⟩
    refine ⟨hphase.trans (hseq ph), hclaim, fun a ha => (hframe a ha).trans (hparts a ?_)⟩
    simp at ha ⊢
    exact ha.2
  refine ⟨fun k hk => ?_, fun k hk => ?_, ?_, fun hdue hgap => ?_, fun hdue hgap => ?_, fun hdue hgap => ?_⟩
  · rw [← harb]
    exact h.taken k ((takesHalf_congr p r harb k).2 hk)
  · rw [← harb]
    exact h.kept k (mt (takesHalf_congr p r harb k).1 hk)
  · rw [← harb]
    exact h.reservation
  · rw [← switchDue_congr p r harb] at hdue
    rw [← hpd] at hgap
    exact hin (h.switch hdue hgap)
  · rw [← switchDue_congr p r harb, ← hpd] at hdue
    rw [← hpd] at hgap
    exact hin (h.setup hdue hgap)
  · rw [← switchDue_congr p r harb, ← hpd] at hdue
    rw [← hpd] at hgap
    obtain ⟨u, hu, hbegun⟩ := h.burst hdue hgap
    exact ⟨u, hin hu, hbegun⟩

/-! ### A panel with nothing at the arbiter (R83, R88, R90) -/

theorem waitsForTwo_iff : s.waitsForTwo p = true ↔ ∃ r, (s.claim p).request = some r ∧ r.cls = .timeline ∧ r.need = 2 := by
  unfold State.waitsForTwo
  cases (s.claim p).request <;> simp

theorem heldBy_eq_zero_iff (x : Arbiter) : x.heldBy p = 0 ↔ x.a.holder ≠ some p ∧ x.b.holder ≠ some p := by
  unfold Arbiter.heldBy
  by_cases ha : x.a.holder = some p <;> simp [ha]

theorem holders_of_no_window {p : Panel} {s : State} (hok : SenseOk s) (h : (s.claim p).window = none) :
    s.arb.a.holder ≠ some p ∧ s.arb.b.holder ≠ some p := by
  have hheld := (hok.claim p).held
  rw [h] at hheld
  exact (heldBy_eq_zero_iff p s.arb).1 hheld

theorem holder_eq_none {p : Panel} {x : Half} (h : x.holder ≠ some p) (h' : x.holder ≠ some p.other) : x.holder = none := by
  cases hx : x.holder with
  | none => rfl
  | some q =>
    rcases Panel.eq_or_other p q with rfl | rfl
    · exact absurd hx h
    · exact absurd hx h'

/-- A reservation sets a half aside for a request that waits because the other panel holds a half; where a panel has nothing
at the arbiter there is none, or the other panel's request would have been granted. -/
theorem reservation_of_idle {p : Panel} {s : State} (hok : SenseOk s) (hc : s.claim p = ⟨none, none⟩) :
    s.arb.reservation = none := by
  cases hv : s.arb.reservation with
  | none => rfl
  | some v =>
    exfalso
    obtain ⟨r, hr, -, hneed⟩ := (waitsForTwo_iff v.panel s).1 (hok.reservation.waits v hv)
    rcases Panel.eq_or_other p v.panel with hp | hp
    · rw [hp, hc] at hr
      cases hr
    · have hwindow : (s.claim v.panel).window = none := ((hok.claim v.panel).one).resolve_left (by simp [hr])
      obtain ⟨ha, hb⟩ := holders_of_no_window hok (p := p) (by rw [hc])
      obtain ⟨ha', hb'⟩ := holders_of_no_window hok hwindow
      rw [hp] at ha' hb'
      have hmine : ∀ u, s.arb.reservation = some u → u.panel = v.panel := fun u hu => by
        rw [hv] at hu
        cases hu
        rfl
      have hmeet : CanMeet s v.panel r := .inl ⟨⟨holder_eq_none ha ha', fun u hu _ => hmine u hu⟩,
        holder_eq_none hb hb', fun u hu _ => hmine u hu⟩
      have hgrant := (canMeet_iff v.panel s r hr (.inr hneed)).2 hmeet
      rw [hok.settled] at hgrant
      cases hgrant

theorem freeFor_of_no_reservation {s : State} (h : s.arb.reservation = none) (k : HalfName) :
    FreeFor s p k ↔ (s.arb.half k).holder = none := by
  cases k <;> simp [FreeFor, Arbiter.half, h]

/-! ### A request that has been made, and the run of the grant rule that follows -/

/-- Panel `p` has made the request `r` in state `s`, which leads to `s'`: the claim holds it, and at most the sense phase has
changed besides (R86, R87; log 10). -/
structure Asked (s s' : State) (p : Panel) (r : Request) : Prop where
  claim : s'.claim p = ⟨some r, none⟩
  parts : Unchanged [.seq p, .claim p] s s'
  seq   : ∀ ph, { s'.seq p with phase := ph } = { s.seq p with phase := ph }

theorem asked_recordRequest {p : Panel} {s : State} (hc : s.claim p = ⟨none, none⟩) :
    Asked s (recordRequest p r s) p r where
  claim := by rw [recordRequest, claim_modClaim_self, hc]
  parts := fun a ha => get_recordRequest a p s r (by simp at ha ⊢; exact ha.2)
  seq := fun ph => by rw [recordRequest, seq_modClaim]

theorem asked_setPhase {p : Panel} {s s' : State} {r : Request} (h : Asked s s' p r) (ph : SensePhase) :
    Asked s (setPhase p ph s') p r where
  claim := (claim_setPhase p p s' ph).trans h.claim
  parts := fun a ha => (get_setPhase a p s' ph (by simp at ha ⊢; exact ha.1)).trans (h.parts a ha)
  seq := fun ph' => by rw [seq_setPhase]; exact h.seq ph'

namespace Asked

variable {s s' : State} {p : Panel} {r : Request}

theorem request (h : Asked s s' p r) : (s'.claim p).request = some r := by rw [h.claim]

theorem arb (h : Asked s s' p r) : s'.arb = s.arb := h.parts .arbiter (by simp)

/-- The other panel's request cannot be met, as it could not before (R88). -/
theorem canGrant_other (h : Asked s s' p r) (hok : SenseOk s) : s'.canGrant p.other = false := by
  rw [canGrant_congr h.arb (h.parts (.claim p.other) (by simp)), hok.settled]

theorem canGrant_iff (h : Asked s s' p r) (hneed : r.need = 1 ∨ r.need = 2) : s'.canGrant p = true ↔ CanMeet s p r := by
  rw [canMeet_iff p s' r h.request hneed, canMeet_congr p r h.arb]

/-- After the grant no request is left that can be met: the panel has none, and the other panel may take no half that it
might not take before. -/
theorem grantee_grant (h : Asked s s' p r) (hok : SenseOk s) (hc : s.claim p = ⟨none, none⟩) :
    (grant p s').grantee = none := by
  have hgranted := windowGranted_grant h.request
  have hnone : s'.arb.reservation = none := by rw [h.arb, reservation_of_idle hok hc]
  have hnone' : (grant p s').arb.reservation = none := by rw [hgranted.reservation, hnone]; rfl
  have hfree : ∀ k, FreeFor (grant p s') p.other k → FreeFor s' p.other k := fun k => by
    rw [freeFor_of_no_reservation _ hnone', freeFor_of_no_reservation _ hnone]
    by_cases hk : TakesHalf s' p r k
    · simp [hgranted.taken k hk]
    · rw [hgranted.kept k hk]
      exact id
  have hclaim : (grant p s').claim p.other = s'.claim p.other :=
    get_grant (.claim p.other) p s' (by simp [noticeParts])
  have hother := canGrant_mono hclaim (hfree .a) (hfree .b) (h.canGrant_other hok)
  obtain ⟨w, hw, -⟩ := claim_of_windowGranted hgranted
  rw [grantee_of_other_not hother, canGrant_of_no_request (by rw [hw])]
  rfl

theorem runGrantRule_of_canMeet (h : Asked s s' p r) (hok : SenseOk s) (hc : s.claim p = ⟨none, none⟩)
    (hneed : r.need = 1 ∨ r.need = 2) (hmeet : CanMeet s p r) : runGrantRule s' = grant p s' := by
  refine runGrantRule_of_one ?_ (h.grantee_grant hok hc)
  rw [grantee_of_other_not (h.canGrant_other hok), if_pos ((h.canGrant_iff hneed).2 hmeet)]

theorem runGrantRule_of_not_canMeet (h : Asked s s' p r) (hok : SenseOk s) (hneed : r.need = 1 ∨ r.need = 2)
    (hmeet : ¬ CanMeet s p r) : runGrantRule s' = s' := by
  refine runGrantRule_of_none ?_
  rw [grantee_of_other_not (h.canGrant_other hok), if_neg (mt (h.canGrant_iff hneed).1 hmeet)]

theorem windowGranted (h : Asked s s' p r) : WindowGranted s (grant p s') p r :=
  windowGranted_of_asked (windowGranted_grant h.request) h.parts h.seq

end Asked

/-! ### The withdrawal of a request (R92, R93) -/

theorem endReservation_of_none {p : Panel} {s : State} (h : s.arb.reservation = none) : endReservation p s = s := by
  unfold endReservation State.reservedFor
  simp [h]

theorem claim_withdraw : (withdraw p s).claim p = { s.claim p with request := none } := by
  unfold withdraw
  rw [claim_setPhase]
  exact (get_endReservation (.claim p) p _ (by simp)).trans (claim_modClaim_self p s _)

theorem phase_withdraw : ((withdraw p s).seq p).phase = .none := by
  unfold withdraw
  rw [seq_setPhase]

theorem arb_withdraw {p : Panel} {s : State} (h : s.arb.reservation = none) : (withdraw p s).arb = s.arb := by
  unfold withdraw
  rw [arb_setPhase, endReservation_of_none (by rw [arb_modClaim, h]), arb_modClaim]

/-! ### The need of a request (R85) -/

theorem needOf_one_or_two (groups : List Group) (cursor k : Nat) : needOf groups cursor k = 1 ∨ needOf groups cursor k = 2 := by
  unfold needOf
  split
  · exact .inr rfl
  · exact .inl rfl

theorem needOf_eq_two_iff (groups : List Group) (cursor k : Nat) : needOf groups cursor k = 2 ↔
    ∃ j < k, ∃ g, groups[(cursor + j) % groups.length]? = some g ∧ 16 < g.width := by
  have hwide : ((groupsFrom groups cursor k).any fun g => decide (16 < g.width)) = true ↔
      ∃ j < k, ∃ g, groups[(cursor + j) % groups.length]? = some g ∧ 16 < g.width := by
    simp only [groupsFrom, List.any_eq_true, List.mem_filterMap, List.mem_range, decide_eq_true_eq]
    constructor
    · rintro ⟨g, ⟨j, hj, hg⟩, hw⟩
      exact ⟨j, hj, g, hg, hw⟩
    · rintro ⟨j, hj, g, hg, hw⟩
      exact ⟨g, ⟨j, hj, hg⟩, hw⟩
  unfold needOf
  rw [← hwide]
  split <;> simp [*]

/-! ### The making of a TIMELINE request (R86, R90, R92, R93) -/

variable (e : Segment)

theorem timelineRequestOf_timelineRequest : TimelineRequestOf s p e (s.timelineRequest p e) := by
  refine ⟨rfl, rfl, needOf_eq_two_iff _ _ _, needOf_one_or_two _ _ _, rfl, ?_⟩
  unfold State.timelineRequest Segment.yield
  by_cases hskip : e.yieldCode = 1#16 <;> by_cases hlimit : (s.pd p).waitLimit = 0 <;> simp [hskip, hlimit]

/-- The state in which a TIMELINE request meets the grant rule (R86). -/
def timelineAsked : State := setPhase p .request (recordRequest p (s.timelineRequest p e) s)

theorem asked_timelineAsked {p : Panel} {s : State} (hc : s.claim p = ⟨none, none⟩) :
    Asked s (timelineAsked p s e) p (s.timelineRequest p e) := asked_setPhase (asked_recordRequest _ hc) _

section
variable {p : Panel} {s : State} {e : Segment}

theorem makeTimelineRequest_of_canMeet (hok : SenseOk s) (hc : s.claim p = ⟨none, none⟩)
    (hmeet : CanMeet s p (s.timelineRequest p e)) :
    makeTimelineRequest p e s = (grant p (timelineAsked p s e), false) := by
  have hasked := asked_timelineAsked e hc
  have hrule := hasked.runGrantRule_of_canMeet hok hc (needOf_one_or_two _ _ _) hmeet
  obtain ⟨w, hw, -⟩ := claim_of_windowGranted hasked.windowGranted
  unfold timelineAsked at hrule hw ⊢
  unfold makeTimelineRequest
  simp only [hrule, hw]

theorem makeTimelineRequest_of_wait (hok : SenseOk s) (hc : s.claim p = ⟨none, none⟩)
    (hmeet : ¬ CanMeet s p (s.timelineRequest p e)) (hwait : (s.timelineRequest p e).deadline ≠ none) :
    makeTimelineRequest p e s = (reserveFree p (timelineAsked p s e), false) := by
  have hasked := asked_timelineAsked e hc
  have hrule := hasked.runGrantRule_of_not_canMeet hok (needOf_one_or_two _ _ _) hmeet
  have hrequest := hasked.request
  obtain ⟨d, hd⟩ := Option.ne_none_iff_exists'.1 hwait
  unfold timelineAsked at hrule hrequest ⊢
  unfold makeTimelineRequest
  simp only [hrule, hrequest, hd]

theorem makeTimelineRequest_of_skip (hok : SenseOk s) (hc : s.claim p = ⟨none, none⟩)
    (hmeet : ¬ CanMeet s p (s.timelineRequest p e)) (hskip : (s.timelineRequest p e).deadline = none) :
    makeTimelineRequest p e s = (occurs .senseSkipped p (withdraw p (timelineAsked p s e)), true) := by
  have hasked := asked_timelineAsked e hc
  have hrule := hasked.runGrantRule_of_not_canMeet hok (needOf_one_or_two _ _ _) hmeet
  have hrequest := hasked.request
  unfold timelineAsked at hrule hrequest ⊢
  unfold makeTimelineRequest
  simp only [hrule, hrequest, hskip]

/-- The other panel has no part in the making of a request: its own, if it waits, cannot be met afterwards either. -/
theorem get_makeTimelineRequest_other (hok : SenseOk s) (hc : s.claim p = ⟨none, none⟩) {a : Part}
    (ha : a ∈ [Part.seq p.other, .claim p.other, .touch p.other]) : (makeTimelineRequest p e s).1.get a = s.get a := by
  have hown : a ∉ .arbiter :: .seq p :: .claim p :: .touch p :: noticeParts := by
    simp only [List.mem_cons, List.not_mem_nil, or_false] at ha
    rcases ha with rfl | rfl | rfl <;> simp [noticeParts]
  have hasked : (timelineAsked p s e).get a = s.get a :=
    (asked_timelineAsked e hc).parts a (by simp at hown ⊢; simp [hown])
  by_cases hmeet : CanMeet s p (s.timelineRequest p e)
  · rw [makeTimelineRequest_of_canMeet hok hc hmeet, get_grant a p _ hown, hasked]
  · by_cases hskip : (s.timelineRequest p e).deadline = none
    · rw [makeTimelineRequest_of_skip hok hc hmeet hskip, get_occurs a p _ _ (by simp at hown; simp [hown]),
        get_withdraw a p _ (by simp at hown; simp [hown]), hasked]
    · rw [makeTimelineRequest_of_wait hok hc hmeet hskip, get_reserveFree a p _ (by simp at hown; simp [hown]), hasked]

theorem otherKept_of_get {s t : State} (h : ∀ a ∈ [Part.seq q, .claim q, .touch q], t.get a = s.get a) :
    OtherKept q s t := by
  have hseq : t.seq q = s.seq q := h (.seq q) (by simp)
  have hclaim : t.claim q = s.claim q := h (.claim q) (by simp)
  have htouch : t.touch q = s.touch q := h (.touch q) (by simp)
  refine ⟨?_, ?_, fun _ => ⟨hseq, hclaim, htouch⟩⟩
  · rw [hseq]
  · simp only [htouch, and_self]

/-- At a grant the panel holds the halves that its request takes, and no others. -/
theorem holders_of_windowGranted {t : State} {r : Request} (h : WindowGranted s t p r) (hok : SenseOk s)
    (hc : s.claim p = ⟨none, none⟩) : (t.arb.a.holder = some p ↔ r.need = 2 ∨ FreeFor s p .a) ∧
      (t.arb.b.holder = some p ↔ r.need = 2 ∨ ¬ FreeFor s p .a) := by
  obtain ⟨ha, hb⟩ := holders_of_no_window hok (p := p) (by rw [hc])
  have hhalf : ∀ k, (s.arb.half k).holder ≠ some p → ((t.arb.half k).holder = some p ↔ TakesHalf s p r k) := by
    intro k hk
    by_cases htakes : TakesHalf s p r k
    · simp [h.taken k htakes, htakes]
    · simp [h.kept k htakes, htakes, hk]
  exact ⟨hhalf .a ha, hhalf .b hb⟩

/-- A TIMELINE request for two halves that waits has every half reserved that no panel holds (R90; log 11). -/
theorem reserveFree_two {s' : State} {r : Request} (hasked : Asked s s' p r) (hok : SenseOk s)
    (hc : s.claim p = ⟨none, none⟩) (hcls : r.cls = .timeline) (hneed : r.need = 2) (k : HalfName)
    (hfree : (s.arb.half k).holder = none) : ∃ v, (reserveFree p s').arb.reservation = some v ∧ v.panel = p ∧
      match k with | .a => v.a = true | .b => v.b = true := by
  have hwaits : s'.waitsForTwo p = true := (waitsForTwo_iff p s').2 ⟨r, hasked.request, hcls, hneed⟩
  have hnone := reservation_of_idle hok hc
  have hmay : FreeFor s' p k := by
    rw [freeFor_congr p hasked.arb, freeFor_of_no_reservation p hnone]
    exact hfree
  unfold reserveFree
  rw [if_pos hwaits, arb_modArb, hasked.arb]
  rw [freeFor_congr p hasked.arb] at hmay
  cases k with
  | a => simp [extendReservation, hnone, (mayTakeA_iff p s).2 hmay]
  | b => simp [extendReservation, hnone, (mayTakeB_iff p s).2 hmay]

theorem reserveFree_one {s' : State} {r : Request} (hasked : Asked s s' p r) (hneed : r.need = 1) :
    reserveFree p s' = s' := by
  have hwaits : ¬ s'.waitsForTwo p = true := fun h => by
    obtain ⟨r', hr', -, hneed'⟩ := (waitsForTwo_iff p s').1 h
    rw [hasked.request] at hr'
    cases hr'
    omega
  unfold reserveFree
  rw [if_neg hwaits]

theorem half_reserveFree (k : HalfName) (s : State) : (reserveFree p s).arb.half k = s.arb.half k := by
  unfold reserveFree
  cases k <;> split <;> rfl

/-- A TIMELINE request that can be met is granted at its making (R86, R88). -/
theorem makeTimelineRequest_granted (hok : SenseOk s) (hc : s.claim p = ⟨none, none⟩)
    (hmeet : CanMeet s p (s.timelineRequest p e)) : (makeTimelineRequest p e s).2 = false ∧
      WindowGranted s (makeTimelineRequest p e s).1 p (s.timelineRequest p e) := by
  rw [makeTimelineRequest_of_canMeet hok hc hmeet]
  exact ⟨rfl, (asked_timelineAsked e hc).windowGranted⟩

/-- One that cannot be met and has a wait deadline waits in REQUEST (R90, R92). -/
theorem makeTimelineRequest_waits (hok : SenseOk s) (hc : s.claim p = ⟨none, none⟩)
    (hmeet : ¬ CanMeet s p (s.timelineRequest p e)) (hwait : (s.timelineRequest p e).deadline ≠ none) :
    let t := (makeTimelineRequest p e s).1
    let r := s.timelineRequest p e
    (makeTimelineRequest p e s).2 = false ∧ t.claim p = ⟨some r, none⟩ ∧ (t.seq p).phase = .request ∧
      t.touch p = s.touch p ∧ t.arb.a = s.arb.a ∧ t.arb.b = s.arb.b ∧
      (r.need = 1 → t.arb.reservation = s.arb.reservation) ∧
      (r.need = 2 → s.arb.a.holder = none → ∃ v, t.arb.reservation = some v ∧ v.panel = p ∧ v.a = true) ∧
      (r.need = 2 → s.arb.b.holder = none → ∃ v, t.arb.reservation = some v ∧ v.panel = p ∧ v.b = true) := by
  have hasked := asked_timelineAsked e hc
  have hreserve : ∀ a ≠ Part.arbiter, (reserveFree p (timelineAsked p s e)).get a = (timelineAsked p s e).get a :=
    fun a ha => get_reserveFree a p _ (by simpa using ha)
  have hseq : (reserveFree p (timelineAsked p s e)).seq p = (timelineAsked p s e).seq p := hreserve (.seq p) nofun
  have hhalf : ∀ k, (reserveFree p (timelineAsked p s e)).arb.half k = s.arb.half k := fun k => by
    rw [half_reserveFree, hasked.arb]
  dsimp only
  rw [makeTimelineRequest_of_wait hok hc hmeet hwait]
  refine ⟨rfl, (hreserve (.claim p) nofun).trans hasked.claim, ?_,
    (hreserve (.touch p) nofun).trans (hasked.parts (.touch p) (by simp)), hhalf .a, hhalf .b, fun hneed => ?_,
    fun hneed hfree => reserveFree_two hasked hok hc rfl hneed .a hfree,
    fun hneed hfree => reserveFree_two hasked hok hc rfl hneed .b hfree⟩
  · rw [hseq, timelineAsked, seq_setPhase]
  · rw [reserveFree_one hasked hneed, hasked.arb]

/-- One that cannot be met and has none is withdrawn at once, with SENSE_SKIPPED and without a reservation (R93). -/
theorem makeTimelineRequest_skipped (hok : SenseOk s) (hc : s.claim p = ⟨none, none⟩)
    (hmeet : ¬ CanMeet s p (s.timelineRequest p e)) (hskip : (s.timelineRequest p e).deadline = none) :
    let t := (makeTimelineRequest p e s).1
    (makeTimelineRequest p e s).2 = true ∧ t.claim p = ⟨none, none⟩ ∧ (t.seq p).phase = .none ∧
      t.touch p = s.touch p ∧ t.arb = s.arb ∧ Counted (.panel .senseSkipped p) true s t := by
  have hasked := asked_timelineAsked e hc
  have hnone : (timelineAsked p s e).arb.reservation = none := by rw [hasked.arb, reservation_of_idle hok hc]
  have hoccurs : ∀ a ∉ noticeParts, ∀ u : State, (occurs .senseSkipped p u).get a = u.get a :=
    fun a ha u => get_occurs a p u _ ha
  dsimp only
  rw [makeTimelineRequest_of_skip hok hc hmeet hskip]
  refine ⟨rfl, ?_, ?_, ?_, ?_, ?_⟩
  · refine (hoccurs (.claim p) (by simp [noticeParts]) _).trans ?_
    change (withdraw p (timelineAsked p s e)).claim p = _
    rw [claim_withdraw, hasked.claim]
  · have hseq : (occurs .senseSkipped p (withdraw p (timelineAsked p s e))).seq p =
      (withdraw p (timelineAsked p s e)).seq p := hoccurs (.seq p) (by simp [noticeParts]) _
    rw [hseq, phase_withdraw]
  · exact (hoccurs (.touch p) (by simp [noticeParts]) _).trans
      ((get_withdraw (.touch p) p _ (by simp)).trans (hasked.parts (.touch p) (by simp)))
  · refine (hoccurs .arbiter (by simp [noticeParts]) _).trans ?_
    change (withdraw p (timelineAsked p s e)).arb = _
    rw [arb_withdraw hnone, hasked.arb]
  · have hflag : (withdraw p (timelineAsked p s e)).flag (.panel .senseSkipped p) = s.flag (.panel .senseSkipped p) :=
      flag_of_get ((get_withdraw .flags p _ (by simp)).trans (hasked.parts .flags (by simp))) _
    unfold Counted
    rw [count_occurs, if_pos rfl, if_pos rfl, hflag]

end

/-! ### The making of a FREE request (R85, R87) -/

/-- The need of a FREE request is that of the one group the cursor names (R85). -/
theorem need_freeRequest : (s.freeRequest p).need = 2 ↔ ∃ g,
    (s.tables p).groupList[(s.touch p).cursor % (s.tables p).groupList.length]? = some g ∧ 16 < g.width := by
  refine (needOf_eq_two_iff _ _ _).trans ?_
  constructor
  · rintro ⟨j, hj, h⟩
    obtain rfl : j = 0 := by omega
    exact h
  · exact fun h => ⟨0, Nat.zero_lt_one, h⟩

theorem makeFreeRequest_granted {p : Panel} {s : State} (hok : SenseOk s) (hc : s.claim p = ⟨none, none⟩)
    (hmeet : CanMeet s p (s.freeRequest p)) : WindowGranted s (makeFreeRequest p s) p (s.freeRequest p) := by
  have hasked := asked_recordRequest (s.freeRequest p) hc
  unfold makeFreeRequest
  rw [hasked.runGrantRule_of_canMeet hok hc (needOf_one_or_two _ _ _) hmeet]
  exact hasked.windowGranted

theorem makeFreeRequest_waits {p : Panel} {s : State} (hok : SenseOk s) (hc : s.claim p = ⟨none, none⟩)
    (hmeet : ¬ CanMeet s p (s.freeRequest p)) :
    (makeFreeRequest p s).claim p = ⟨some (s.freeRequest p), none⟩ ∧ Unchanged [.claim p] s (makeFreeRequest p s) := by
  have hasked := asked_recordRequest (s.freeRequest p) hc
  unfold makeFreeRequest
  rw [hasked.runGrantRule_of_not_canMeet hok (needOf_one_or_two _ _ _) hmeet]
  exact ⟨hasked.claim, fun a ha => get_recordRequest a p s _ ha⟩

/-! ### One run of the grant rule (R88) -/

/-- The rule grants the panel it chooses, and, where another request can be met then, that one too. -/
theorem runGrantRule_grants {p : Panel} {s : State} {r : Request} (hgrantee : s.grantee = some p)
    (hr : (s.claim p).request = some r) : ∃ g, WindowGranted s g p r ∧ (g.grantee = none → runGrantRule s = g) ∧
      ∀ q r', g.grantee = some q → (g.claim q).request = some r' → r'.need = 1 ∨ r'.need = 2 →
        WindowGranted g (runGrantRule s) q r' := by
  refine ⟨grant p s, windowGranted_grant hr, runGrantRule_of_one hgrantee, fun q r' hq hr' _ => ?_⟩
  rw [runGrantRule_of_two hgrantee hq]
  exact windowGranted_grant hr'

/-- Settles O51: a request is granted or not by whether it can be met where it is made, since with a settled arbiter the other
panel's request cannot be met before or after it. -/
theorem senseRequests : Obligations.SenseRequests := by
  unfold Obligations.SenseRequests
  refine ⟨fun s p e hok hc => ?_, fun s p hok hc => ?_, fun s p r hgrantee hr _ => runGrantRule_grants hgrantee hr,
    fun s => runGrantRule_of_none, fun s p => grantee_iff p s⟩
  · refine ⟨s.timelineRequest p e, timelineRequestOf_timelineRequest p s e,
      otherKept_of_get p.other fun a => get_makeTimelineRequest_other hok hc,
      fun a ha => get_makeTimelineRequest a p s e ha, fun hmeet => ?_, makeTimelineRequest_waits hok hc,
      makeTimelineRequest_skipped hok hc⟩
    obtain ⟨hstays, hgranted⟩ := makeTimelineRequest_granted hok hc hmeet
    exact ⟨hstays, hgranted, claim_of_windowGranted hgranted, holders_of_windowGranted hgranted hok hc⟩
  · exact ⟨s.freeRequest p, rfl, rfl, rfl, rfl, needOf_one_or_two _ _ _, need_freeRequest p s,
      makeFreeRequest_granted hok hc, makeFreeRequest_waits hok hc⟩

end Sys2Proof.Machine.SenseGrants
end
